-- ==== Sys2Proof/Word.lean ====
section
/-! DEFINITION. The two word types of the block: a stream byte and a 32-bit word (R7, R9, R40). -/

namespace Sys2Proof

/-- A byte of the stream or of the frame buffer; bit 7 is the most significant (R7). -/
abbrev Byte := BitVec 8

/-- A 32-bit header word or host register word (R9, R40). -/
abbrev Word := BitVec 32

end Sys2Proof
end

