-- ==== Sys2Proof/Syntax.lean ====
section
/-! DEFINITION. The words the block decodes, as syntax: one constructor of `Instr` per row of spec/opcode_table.json
(nine header classes and three reject classes of R88, four command codes of R90). -/

namespace Sys2Proof

/-- The two places a 32-bit word is decoded: the 4-byte window (R80) and the CMD register (R90). -/
inductive Port where
  | header
  | command
  deriving DecidableEq, Repr

/-- MPEG version (R83). -/
inductive Version where
  | v1
  | v2
  | v25
  deriving DecidableEq, Repr

/-- MPEG layer (R84). -/
inductive Layer where
  | i
  | ii
  | iii
  deriving DecidableEq, Repr

/-- The fields of a header word below its class bits `H[31:17]` (R80). -/
structure HdrFields where
  /-- `H[16]`, the protection bit. -/
  prot : BitVec 1
  /-- `H[15:12]`, the bitrate index. -/
  bri : BitVec 4
  /-- `H[11:10]`, the sample-rate index. -/
  sri : BitVec 2
  /-- `H[9]`, the padding bit. -/
  pad : BitVec 1
  /-- `H[8]`, ignored (R82). -/
  ignA : BitVec 1
  /-- `H[7:6]`, the channel-mode code. -/
  chm : BitVec 2
  /-- `H[5:0]`, ignored (R82). -/
  ignB : BitVec 6
  deriving DecidableEq, Repr

/-- One constructor per row of the opcode table. -/
inductive Instr where
  | hdrV1LI (f : HdrFields)
  | hdrV1LII (f : HdrFields)
  | hdrV1LIII (f : HdrFields)
  | hdrV2LI (f : HdrFields)
  | hdrV2LII (f : HdrFields)
  | hdrV2LIII (f : HdrFields)
  | hdrV25LI (f : HdrFields)
  | hdrV25LII (f : HdrFields)
  | hdrV25LIII (f : HdrFields)
  /-- A window without the 11 sync ones: `sync = H[31:21]`, `rest = H[20:0]` (R87 row 1). -/
  | rejectNoSync (sync : BitVec 11) (rest : BitVec 21)
  /-- Version code 01: `rest = H[18:0]` (R87 row 2). -/
  | rejectReservedVersion (rest : BitVec 19)
  /-- Layer code 00: `ver = H[20:19]`, `rest = H[16:0]` (R87 row 3). -/
  | rejectReservedLayer (ver : BitVec 2) (rest : BitVec 17)
  /-- Code 00; `ign = CMD[31:2]` is ignored (R90). -/
  | nop (ign : BitVec 30)
  /-- Code 01. -/
  | nextFrame (ign : BitVec 30)
  /-- Code 10. -/
  | nextHeader (ign : BitVec 30)
  /-- Code 11. -/
  | cmdReserved (ign : BitVec 30)
  deriving DecidableEq, Repr

/-- The port whose words the instruction stands for (the "format" column of the opcode table). -/
def Instr.port : Instr → Port
  | .hdrV1LI _ | .hdrV1LII _ | .hdrV1LIII _ | .hdrV2LI _ | .hdrV2LII _ | .hdrV2LIII _
  | .hdrV25LI _ | .hdrV25LII _ | .hdrV25LIII _
  | .rejectNoSync _ _ | .rejectReservedVersion _ | .rejectReservedLayer _ _ => .header
  | .nop _ | .nextFrame _ | .nextHeader _ | .cmdReserved _ => .command

/-- The header class of a version and a layer (R88). -/
def classInstr (v : Version) (l : Layer) (f : HdrFields) : Instr :=
  match v, l with
  | .v1, .i => .hdrV1LI f
  | .v1, .ii => .hdrV1LII f
  | .v1, .iii => .hdrV1LIII f
  | .v2, .i => .hdrV2LI f
  | .v2, .ii => .hdrV2LII f
  | .v2, .iii => .hdrV2LIII f
  | .v25, .i => .hdrV25LI f
  | .v25, .ii => .hdrV25LII f
  | .v25, .iii => .hdrV25LIII f

end Sys2Proof
end

