-- ==== Sys2Proof/WellFormed.lean ====
section
/-! DEFINITION. Which terms of `Instr` are words of their own row: every operand value is admitted but the two that make a
reject term a word of another row (R87, R88). -/

namespace Sys2Proof

/-- A `rejectNoSync` word has a sync field that is not eleven ones (R88: "No sync: H & 0xFFE00000 ≠ 0xFFE00000").
A `rejectReservedLayer` word has a version code other than the reserved 01, which R109 tests first (log 13). -/
def Instr.wf : Instr → Bool
  | .hdrV1LI _ | .hdrV1LII _ | .hdrV1LIII _ | .hdrV2LI _ | .hdrV2LII _ | .hdrV2LIII _
  | .hdrV25LI _ | .hdrV25LII _ | .hdrV25LIII _ => true
  | .rejectNoSync sync _ => sync != 0x7FF#11
  | .rejectReservedVersion _ => true
  | .rejectReservedLayer ver _ => ver != 0b01#2
  | .nop _ | .nextFrame _ | .nextHeader _ | .cmdReserved _ => true

end Sys2Proof
end

