-- ==== Sys2Proof/Decode.lean ====
section
/-! DEFINITION. Decoding of header words (R80 to R88) and command words (R90), total on every 32-bit word of either port, and
the encoder written from the same tables. -/

namespace Sys2Proof

/-- `H = b0 ‖ b1 ‖ b2 ‖ b3`, `b0` most significant (R9). -/
def headerWord (b0 b1 b2 b3 : Byte) : Word := b0 ++ b1 ++ b2 ++ b3

/-- Byte `b_k` of a header word, `b0` at bits 31:24 (R9). -/
def headerByte (h : Word) (k : Nat) : Byte := h.extractLsb' (24 - 8 * k) 8

/-- `H[31:21]`, both parts of the sync field (R80). -/
def syncBits (h : Word) : BitVec 11 := h.extractLsb' 21 11

/-- `ver = H[20:19]` (R80). -/
def verBits (h : Word) : BitVec 2 := h.extractLsb' 19 2

/-- `lay = H[18:17]` (R80). -/
def layBits (h : Word) : BitVec 2 := h.extractLsb' 17 2

/-- The fields below the class bits (R80, R81). -/
def fieldsOf (h : Word) : HdrFields where
  prot := h.extractLsb' 16 1
  bri := h.extractLsb' 12 4
  sri := h.extractLsb' 10 2
  pad := h.extractLsb' 9 1
  ignA := h.extractLsb' 8 1
  chm := h.extractLsb' 6 2
  ignB := h.extractLsb' 0 6

/-- The version of a version code; 01 is reserved (R83). -/
def versionOf (c : BitVec 2) : Option Version :=
  if c = 0b00#2 then some .v25 else if c = 0b10#2 then some .v2 else if c = 0b11#2 then some .v1 else none

/-- The version code of a version (R83). -/
def versionCode : Version → BitVec 2
  | .v25 => 0b00#2
  | .v2 => 0b10#2
  | .v1 => 0b11#2

/-- The layer of a layer code; 00 is reserved (R84). -/
def layerOf (c : BitVec 2) : Option Layer :=
  if c = 0b01#2 then some .iii else if c = 0b10#2 then some .ii else if c = 0b11#2 then some .i else none

/-- The layer code of a layer (R84). -/
def layerCode : Layer → BitVec 2
  | .iii => 0b01#2
  | .ii => 0b10#2
  | .i => 0b11#2

/-- The class of a header word (R88), in the order of R109: sync, version, layer. -/
def decodeHeader (h : Word) : Instr :=
  if syncBits h = 0x7FF#11 then
    match versionOf (verBits h) with
    | none => .rejectReservedVersion (h.extractLsb' 0 19)
    | some v =>
      match layerOf (layBits h) with
      | none => .rejectReservedLayer (verBits h) (h.extractLsb' 0 17)
      | some l => classInstr v l (fieldsOf h)
  else .rejectNoSync (syncBits h) (h.extractLsb' 0 21)

/-- The command of a word written to CMD: code in bits 1:0, the rest ignored but kept (R90). -/
def decodeCommand (w : Word) : Instr :=
  let code : BitVec 2 := w.extractLsb' 0 2
  let ign : BitVec 30 := w.extractLsb' 2 30
  if code = 0b00#2 then .nop ign
  else if code = 0b01#2 then .nextFrame ign
  else if code = 0b10#2 then .nextHeader ign
  else .cmdReserved ign

/-- The decoder of each port. -/
def decode : Port → Word → Instr
  | .header, h => decodeHeader h
  | .command, w => decodeCommand w

/-- Why a byte string is no header word. -/
inductive DecodeError where
  /-- Fewer than 4 bytes: no complete window. -/
  | incompleteWindow (have_ : Nat)
  deriving DecidableEq, Repr

/-- The header decoder on stream bytes, first byte `b0` (R9, R113): the instruction of the first 4 bytes and the bytes after
them, or the name of what is missing. -/
def decodeStream : List Byte → Except DecodeError (Instr × List Byte)
  | b0 :: b1 :: b2 :: b3 :: rest => .ok (decodeHeader (headerWord b0 b1 b2 b3), rest)
  | bs => .error (.incompleteWindow bs.length)

/-- The word of a header class (R80: `11111111111VVLLPBBBBSSDxCCxxxxxx`). -/
def encodeClass (v : Version) (l : Layer) (f : HdrFields) : Word :=
  0x7FF#11 ++ versionCode v ++ layerCode l ++ f.prot ++ f.bri ++ f.sri ++ f.pad ++ f.ignA ++ f.chm ++ f.ignB

/-- The word of an instruction, from the encoding tables R80, R83, R84, R88 and R90. -/
def encode : Instr → Word
  | .hdrV1LI f => encodeClass .v1 .i f
  | .hdrV1LII f => encodeClass .v1 .ii f
  | .hdrV1LIII f => encodeClass .v1 .iii f
  | .hdrV2LI f => encodeClass .v2 .i f
  | .hdrV2LII f => encodeClass .v2 .ii f
  | .hdrV2LIII f => encodeClass .v2 .iii f
  | .hdrV25LI f => encodeClass .v25 .i f
  | .hdrV25LII f => encodeClass .v25 .ii f
  | .hdrV25LIII f => encodeClass .v25 .iii f
  | .rejectNoSync sync rest => sync ++ rest
  | .rejectReservedVersion rest => 0x7FF#11 ++ 0b01#2 ++ rest
  | .rejectReservedLayer ver rest => 0x7FF#11 ++ ver ++ 0b00#2 ++ rest
  | .nop ign => ign ++ 0b00#2
  | .nextFrame ign => ign ++ 0b01#2
  | .nextHeader ign => ign ++ 0b10#2
  | .cmdReserved ign => ign ++ 0b11#2

/-- The opcode table lists the words of both ports in one number space. DESIGN CHOICE (log 12): a number below 4, a bare
command code, is read as a CMD word, any other as a header word. Only `decodeTableWord` and `withFetchWord` use this; the
machine itself always knows the port a word comes from. -/
def tablePort (w : Nat) : Port := if w < 4 then .command else .header

/-- The instruction the decoder of `tablePort w` reads from a 32-bit table word. -/
def decodeTableWord (nbits w : Nat) : Option Instr :=
  if nbits ≤ 32 ∧ w < 2 ^ 32 then some (decode (tablePort w) (BitVec.ofNat 32 w)) else none

end Sys2Proof
end

