-- ==== Sys2Proof/Config.lean ====
section
/-! DEFINITION. The implementation parameters of R6: the two model arguments as plain data, and the fixed sizes. -/

namespace Sys2Proof

/-- The Layer I constant (R131, decision D5): `doc` takes the coefficient of R130, `iso` takes 12. -/
inductive Layer1Coeff where
  | doc
  | iso
  deriving DecidableEq, Repr

/-- The parameters R6 calls model arguments. They are fixed while the machine runs. -/
structure Config where
  /-- `LAYER1_COEFF` (R131). -/
  layer1Coeff : Layer1Coeff
  /-- `RIFF_PAD_ODD` (R196). -/
  riffPadOdd : Bool
  deriving DecidableEq, Repr

/-- The defaults of R6. -/
def Config.default : Config := { layer1Coeff := .doc, riffPadOdd := false }

/-- `MAX_FRAME_LEN`, in bytes (R6). -/
def maxFrameLen : Nat := 16384

/-- `FB_SIZE`, in bytes (R6, R29). -/
def fbSize : Nat := maxFrameLen

/-- `POS_WIDTH`, the bits of `upos` (R6, R28). -/
def posWidth : Nat := 64

end Sys2Proof
end

