-- ==== Sys2Proof/Machine/State.lean ====
section
/-! DEFINITION. The state of the block (10_state.md), of the byte source (20_memory.md §2) and of the inputs still to come, as
plain data, with its value after reset (R53). -/

namespace Sys2Proof.Machine

/-- Synchronizer state (R21). -/
inductive Phase where
  | seeking
  | emitting
  | exhausted
  deriving DecidableEq, Repr

/-- Which path entered EXHAUSTED (R22). -/
inductive ExKind where
  | clean
  | truncated
  | formatError
  | sourceError
  deriving DecidableEq, Repr

/-- Mode of the command in progress or last accepted (R27). -/
inductive Mode where
  | full
  | headerOnly
  deriving DecidableEq, Repr

/-- Outcome of the last completed command (R30, R92). -/
inductive Result where
  | none
  | frame
  | eosClean
  | eosTruncated
  | formatError
  | sourceError
  deriving DecidableEq, Repr

/-- Channel mode (R85). -/
inductive ChannelMode where
  | stereo
  | jointStereo
  | dualChannel
  | mono
  deriving DecidableEq, Repr

/-- Four byte registers, indexed 0 to 3: the window `W` (R24), a chunk identifier, a chunk size (R192). -/
structure Quad where
  b0 : Byte
  b1 : Byte
  b2 : Byte
  b3 : Byte
  deriving DecidableEq, Repr

/-- The decoded-header latch, fields and widths of R25. -/
structure Hdr where
  version : Version
  vcode : BitVec 2
  layer : Layer
  lcode : BitVec 2
  bitRate : BitVec 19
  sampleRate : BitVec 16
  channelMode : ChannelMode
  cmcode : BitVec 2
  crcPresent : Bool
  padding : Bool
  frameLengthBytes : BitVec 15
  sampleCount : BitVec 11
  word : Word
  deriving DecidableEq, Repr

/-- Where the command in progress waits (R172): idle, or the source transaction whose response it needs next. `riffHeader k`,
`chunkId k` and `chunkSize k` carry the loop counter `k` of R192. -/
inductive Ctx where
  | idle
  | fill
  | shift
  | payload
  | rewind
  | riffHeader (k : Nat)
  | chunkId (k : Nat)
  | chunkSize (k : Nat)
  | seekData
  | seekSkip
  deriving DecidableEq, Repr

/-- A transaction on the byte-source port (R61). -/
inductive Txn where
  | read
  | seek (p : Nat)
  deriving DecidableEq, Repr

/-- A response of the byte source (R61, R62). -/
inductive Response where
  | data (b : Byte)
  | eos
  | ok
  | error
  deriving DecidableEq, Repr

/-- How the source answers one transaction: as R61 says, or with the free ERROR of R62. -/
inductive Draw where
  | normal
  | error
  deriving DecidableEq, Repr

/-- One input from outside the block (log 1). Offsets and widths are in bytes, the offset from the block's base (R40). -/
inductive Event where
  /-- The host writes a register. -/
  | hostWrite (offset width : Nat) (value : Word)
  /-- The host reads a register or an FB byte. -/
  | hostRead (offset width : Nat)
  /-- `RST` is pulsed (R230). -/
  | rst
  /-- The source answers its oldest outstanding transaction. -/
  | answer (d : Draw)
  /-- The platform binds a new source at position 0 (R232, R233). -/
  | bind (contents : List Byte)
  deriving DecidableEq, Repr

/-- The frame buffer: the bytes that hold a value, addresses strictly rising. An unlisted byte has no value (R53, log 4). -/
abbrev Memory := List Host.Cell

/-- The whole machine. INVENTORY.md lists each field with its rule. -/
structure State where
  cfg : Config
  phase : Phase
  exkind : Option ExKind
  riffChecked : Bool
  w : Quad
  wfill : Nat
  hdr : Hdr
  pcnt : Nat
  mode : Mode
  upos : Nat
  fb : Memory
  busy : Bool
  done : Bool
  result : Result
  ctx : Ctx
  cid : Quad
  csz : Quad
  stale : List Txn
  src : List Byte
  cursor : Nat
  env : List Event
  rdata : Word
  deriving DecidableEq, Repr

/-- Why the machine stops with a fault. All are safe: the hardware goes on with an unspecified value or cannot get there. -/
inductive Fault where
  /-- The host reads HDR, INFO, BITRATE, SAMPLERATE, FRAMELEN or SAMPLES while `done = 1`, `busy = 0`, `result = FRAME` does
  not hold (R50, U7, U21). Raised by a host read. Safe: the spec asks for a host fault, the hardware returns some value. -/
  | hostUndefinedRegister
  /-- The host reads an FB byte that R74 gives no value (U8). Raised by a host read. Safe: as above. -/
  | hostUndefinedFb
  /-- The host makes a register access that is misaligned or not 32 bits wide, or an FB access that is not 8 bits wide
  (R65, U10). Raised by a host access. Safe: the spec calls it a host fault with no defined result. -/
  | hostBadAccess
  /-- A command arrives in EXHAUSTED with no `exkind` (U9). Raised by NEXT_FRAME and NEXT_HEADER in states no run reaches. Safe. -/
  | exkindUnwritten
  /-- The block writes an FB byte at 16384 or above (R60). Raised by the payload step in states no run reaches. Safe. -/
  | fbAddressAbsent
  deriving DecidableEq, Repr

/-- Why the machine refuses to go on: the inputs 93_implementation_defined.md marks `refuse`. All are safe. -/
inductive Refusal where
  /-- An instruction without a meaning. Raised by `exec`'s refused arms only (there is none now). Safe. -/
  | notModelled (mnemonic : String)
  /-- The first command after reset is accepted with the source not at position 0 (R232, U16). Raised by NEXT_FRAME and
  NEXT_HEADER. Safe: the spec puts such a run outside itself. -/
  | cursorNotAtStart
  /-- The platform binds a source while the block is in use (R71, R73, R233, U17). Raised by `Event.bind`. Safe. -/
  | sourceRebound
  /-- The platform binds a source of 2^63 bytes or more (R199, U15). Raised by `Event.bind`. Safe. -/
  | sourceTooLong
  /-- The unwrapper's next seek target does not fit the 64 bits of `upos` (R199, U15). Raised by the chunk walk. Safe. -/
  | seekTargetTooWide
  deriving DecidableEq, Repr

/-- DESIGN CHOICE (log 2, log 5): four zero bytes, for byte registers the spec leaves unwritten at reset. -/
def Quad.zero : Quad := { b0 := 0, b1 := 0, b2 := 0, b3 := 0 }

/-- DESIGN CHOICE (log 3): the latch at reset, all codes and numbers zero; the spec leaves it unwritten. -/
def Hdr.zero : Hdr where
  version := .v25
  vcode := 0
  layer := .i
  lcode := 0
  bitRate := 0
  sampleRate := 0
  channelMode := .stereo
  cmcode := 0
  crcPresent := false
  padding := false
  frameLengthBytes := 0
  sampleCount := 0
  word := 0

/-- The machine right after reset: the block as R53 says, default parameters (R6), no source bound and no input to come
(log 1, log 9). -/
def State.reset : State where
  cfg := Config.default
  phase := .seeking
  exkind := none
  riffChecked := false
  w := Quad.zero
  wfill := 0
  hdr := Hdr.zero
  pcnt := 0
  mode := .full
  upos := 0
  fb := []
  busy := false
  done := false
  result := .none
  ctx := .idle
  cid := Quad.zero
  csz := Quad.zero
  stale := []
  src := []
  cursor := 0
  env := []
  rdata := 0

end Sys2Proof.Machine
end

