-- ==== Sys2Proof/Machine/Flags.lean ====
section
/-! DEFINITION. The coded views of the state the host sees: result and phase codes (R92, R42), the STATUS and INFO words
(R42, R44), when the results are valid (R50), and `done_o` (R212). -/

namespace Sys2Proof.Machine

/-- RESULT code (R92); 110 and 111 are never produced. -/
def resultCode : Result → BitVec 3
  | .none => 0b000#3
  | .frame => 0b001#3
  | .eosClean => 0b010#3
  | .eosTruncated => 0b011#3
  | .formatError => 0b100#3
  | .sourceError => 0b101#3

/-- PHASE code (R42); 11 is never produced. -/
def phaseCode : Phase → BitVec 2
  | .seeking => 0b00#2
  | .emitting => 0b01#2
  | .exhausted => 0b10#2

/-- MODEHDR (R42). -/
def modeCode : Mode → BitVec 1
  | .full => 0#1
  | .headerOnly => 1#1

/-- `code` of R154: the result that repeats a terminal kind. -/
def exhaustResult : ExKind → Result
  | .clean => .eosClean
  | .truncated => .eosTruncated
  | .formatError => .formatError
  | .sourceError => .sourceError

/-- STATUS (R42). -/
def statusWord (s : State) : Word :=
  0#23 ++ modeCode s.mode ++ BitVec.ofBool s.riffChecked ++ phaseCode s.phase ++ resultCode s.result ++
    BitVec.ofBool s.done ++ BitVec.ofBool s.busy

/-- INFO (R44). -/
def infoWord (h : Hdr) : Word :=
  0#24 ++ BitVec.ofBool h.padding ++ BitVec.ofBool h.crcPresent ++ h.cmcode ++ h.lcode ++ h.vcode

/-- The result registers are valid (R50): `done = 1`, `busy = 0` and `result = FRAME`. -/
def resultsValid (s : State) : Bool := s.done && !s.busy && decide (s.result = .frame)

/-- The interrupt-capable output `done_o` (R212). -/
def doneO (s : State) : Bool := s.done

end Sys2Proof.Machine
end

