-- ==== Sys2Proof/Machine/Ops.lean ====
section
/-! DEFINITION. The operations the meanings are made of: frame-buffer bytes (R60), source transactions (R61, R62), completion
(R165), entering the terminal state (R168, R214), and the synchronizer's steps (R155, R158, R160 to R164, R150, R154). -/

namespace Sys2Proof.Machine

/-- The answer of an operation that may stop. -/
abbrev Out := Host.Outcome State Fault Refusal

/-! ### Frame buffer -/

/-- The value of byte `i`; an unlisted byte has none. -/
def Memory.read : Memory → Nat → Option Byte
  | [], _ => none
  | (a, b) :: m, i => if a = i then some b else Memory.read m i

/-- Write byte `i`, keeping the addresses strictly rising. -/
def Memory.write : Memory → Nat → Byte → Memory
  | [], i, v => [(i, v)]
  | (a, b) :: m, i, v =>
    if i < a then (i, v) :: (a, b) :: m
    else if i = a then (i, v) :: m
    else (a, b) :: Memory.write m i v

/-- The canonical form: addresses strictly rising and inside FB (R60). -/
abbrev Memory.wf (m : Memory) : Prop := m.Pairwise (fun x y => x.1 < y.1) ∧ ∀ c ∈ m, c.1 < fbSize

/-! ### Four-byte registers -/

/-- Write byte `k` of a four-byte register; there are only bytes 0 to 3. -/
def Quad.set (q : Quad) (k : Nat) (v : Byte) : Quad :=
  match k with
  | 0 => { q with b0 := v }
  | 1 => { q with b1 := v }
  | 2 => { q with b2 := v }
  | 3 => { q with b3 := v }
  | _ => q

/-- The header word of the window (R157). -/
def windowWord (q : Quad) : Word := headerWord q.b0 q.b1 q.b2 q.b3

/-! ### Source transactions -/

/-- The transaction the command in progress waits for (R172). -/
def pendingTxn (s : State) : Option Txn :=
  match s.ctx with
  | .idle => none
  | .fill | .shift | .payload | .riffHeader _ | .chunkId _ | .chunkSize _ => some .read
  | .rewind => some (.seek 0)
  | .seekData | .seekSkip => some (.seek s.upos)

/-- The source performs a transaction (R61), or answers ERROR and keeps its cursor (R62). -/
def performTxn (t : Txn) (d : Draw) (s : State) : Response × State :=
  match d, t with
  | .error, _ => (.error, s)
  | .normal, .read =>
    match s.src[s.cursor]? with
    | some b => (.data b, { s with cursor := s.cursor + 1 })
    | none => (.eos, s)
  | .normal, .seek p => (.ok, { s with cursor := p })

/-! ### Completion and the terminal state -/

/-- `complete(res)` (R165). -/
def complete (res : Result) (s : State) : State :=
  { s with result := res, busy := false, done := true, ctx := .idle }

/-- `Exhaust(k)` (R168, R214): the block's one way of taking an "exception". There is no return from it but reset (R215). -/
def exhaust (k : ExKind) (s : State) : State :=
  complete (exhaustResult k) { s with phase := .exhausted, exkind := some k }

/-- What a read does with its response (R155, R158, R162, R192): go on with the byte, or end the command, with `atEnd` on END
and `SOURCE_ERROR` on ERROR (R167, R198). -/
def onByte (r : Response) (atEnd : ExKind) (s : State) (go : Byte → State → Out) : Out :=
  match r with
  | .data b => go b s
  | .error => .next (exhaust .sourceError s)
  | .eos | .ok => .next (exhaust atEnd s)

/-- What a seek does with its response (R192): go on, or end the command (R198). -/
def onSeek (r : Response) (s : State) (go : State → Out) : Out :=
  match r with
  | .error => .next (exhaust .sourceError s)
  | .ok | .eos | .data _ => go s

/-! ### Synchronizer steps -/

/-- FILL4 begins (R155): `wfill <- 0`, wait for the first byte. -/
def startFill (s : State) : State := { s with wfill := 0, ctx := .fill }

/-- SHIFT1 up to its read (R158): `W[0] <- W[1]; W[1] <- W[2]; W[2] <- W[3]`. -/
def shiftWindow (s : State) : State :=
  { s with w := { b0 := s.w.b1, b1 := s.w.b2, b2 := s.w.b3, b3 := s.w.b3 }, ctx := .shift }

/-- EMIT.DONE (R164). -/
def emitDone (s : State) : State := complete .frame { s with phase := .seeking }

/-- The test of EMIT.PAYLOAD's loop (R162): wait for the next byte, or deliver the frame. -/
def payloadLoop (s : State) : State :=
  if s.pcnt < s.hdr.frameLengthBytes.toNat then { s with ctx := .payload } else emitDone s

/-- EMIT.COPYHDR (R161): in FULL mode the window's bytes go to `FB[0..3]`. -/
def copyHeader (s : State) : State :=
  match s.mode with
  | .full =>
    { s with fb := Memory.write (Memory.write (Memory.write (Memory.write s.fb 0 s.w.b0) 1 s.w.b1) 2 s.w.b2) 3 s.w.b3 }
  | .headerOnly => s

/-- SYNC.LATCH and EMIT.COPYHDR, then the first test of the payload loop (R160, R161, R162). -/
def latchHeader (h : Hdr) (s : State) : State :=
  payloadLoop (copyHeader { s with hdr := h, phase := .emitting, pcnt := 4 })

/-- SYNC.TRY once the decoder has answered (R157): a valid header is latched, an invalid one shifts the window. -/
def tryCandidate (h : Option Hdr) (s : State) : State :=
  match h with
  | some h => latchHeader h s
  | none => shiftWindow s

/-- `MemWrite(FB + i, 1, v)` of the payload (R162); FB has no byte at 16384 or above (R60). -/
def storePayload (s : State) (i : Nat) (v : Byte) : Out :=
  match s.mode with
  | .headerOnly => .next s
  | .full => if i < fbSize then .next { s with fb := Memory.write s.fb i v } else .fault .fbAddressAbsent

/-! ### Commands -/

/-- The start of `NextFrame` (R166): in EXHAUSTED the terminal code repeats (R154), else FILL4 begins. The first command
after reset, the one that finds `result = NONE`, needs the source at position 0 (R232, U16). -/
def startNextFrame (s : State) : Out :=
  match s.phase with
  | .exhausted =>
    match s.exkind with
    | some k => .next (complete (exhaustResult k) s)
    | none => .fault .exkindUnwritten
  | .seeking | .emitting =>
    if s.result = .none ∧ s.cursor ≠ 0 then .refused .cursorNotAtStart else .next (startFill s)

/-- CMD.ACCEPT for the codes 01 and 10 (R150): ignored while busy. -/
def acceptCommand (m : Mode) (s : State) : Out :=
  if s.busy then .next s else startNextFrame { s with busy := true, done := false, mode := m }

/-! ### Reset -/

/-- `RST` (R230): every piece of the block's state to its value of R53, the command in progress abandoned. The source, its
cursor, the parameters and the inputs still to come are not the block's. A transaction still outstanding stays outstanding
at the source, its response to be discarded (log 8). -/
def hardReset (s : State) : State :=
  { State.reset with
    cfg := s.cfg, src := s.src, cursor := s.cursor, env := s.env, rdata := s.rdata,
    stale := s.stale ++ (pendingTxn s).toList }

/-- The platform binds a source at position 0 (R232, R233), which it may do only before the first command after reset
(R71, U17), and only with a source the positions can address (R199, U15). -/
def bindSource (contents : List Byte) (s : State) : Out :=
  if s.busy ∨ s.result ≠ .none then .refused .sourceRebound
  else if contents.length ≥ 2 ^ 63 then .refused .sourceTooLong
  else .next { s with src := contents, cursor := 0, stale := [] }

end Sys2Proof.Machine
end

