-- ==== Sys2Proof/Machine/Command.lean ====
section
/-! DEFINITION. The meaning of a word written to CMD (R150 to R153), one definition per command code of R90. -/

namespace Sys2Proof.Machine

/-- NOP (R151): no effect. -/
def execNop (_ign : BitVec 30) (s : State) : Out := .next s

/-- NEXT_FRAME (R152): the command is accepted in FULL mode. Its source transactions follow step by step (R172). -/
def execNextFrame (_ign : BitVec 30) (s : State) : Out := acceptCommand .full s

/-- NEXT_HEADER (R153): as NEXT_FRAME, in HEADER_ONLY mode. -/
def execNextHeader (_ign : BitVec 30) (s : State) : Out := acceptCommand .headerOnly s

/-- CMD_RESERVED (R91, R151): the same effect as NOP. -/
def execCmdReserved (_ign : BitVec 30) (s : State) : Out := .next s

end Sys2Proof.Machine
end

