-- ==== Sys2Proof/Machine/Operands.lean ====
section
/-! DEFINITION. What a header word's fields mean: the constant tables (R31 to R35), the field decoders (R100 to R108), the
frame-length calculator (R130 to R133) and DECODE (R109). All pure (R110). -/

namespace Sys2Proof.Machine

/-- `versionGroup` (R31). -/
def versionGroup : Version → Nat
  | .v1 => 0
  | .v2 | .v25 => 1

/-- A row of the bitrate table, index 0 to 14, in kbit/s (R32). -/
def bitrateRow : Version → Layer → List Nat
  | .v1, .i => [0, 32, 64, 96, 128, 160, 192, 224, 256, 288, 320, 352, 384, 416, 448]
  | .v1, .ii => [0, 32, 48, 56, 64, 80, 96, 112, 128, 160, 192, 224, 256, 320, 384]
  | .v1, .iii => [0, 32, 40, 48, 56, 64, 80, 96, 112, 128, 160, 192, 224, 256, 320]
  | .v2, .i | .v25, .i => [0, 32, 48, 56, 64, 80, 96, 112, 128, 144, 160, 176, 192, 224, 256]
  | .v2, .ii | .v25, .ii => [0, 8, 16, 24, 32, 40, 48, 56, 64, 80, 96, 112, 128, 144, 160]
  | .v2, .iii | .v25, .iii => [0, 8, 16, 24, 32, 40, 48, 56, 64, 80, 96, 112, 128, 144, 160]

/-- `ROM_BR[versionGroup v][l][i]` (R32); index 15 has no entry. -/
def romBr (v : Version) (l : Layer) (i : Nat) : Option Nat := (bitrateRow v l)[i]?

/-- A row of the sample-rate table, index 0 to 2, in Hz (R33). -/
def sampleRateRow : Version → List Nat
  | .v1 => [44100, 48000, 32000]
  | .v2 => [22050, 24000, 16000]
  | .v25 => [11025, 12000, 8000]

/-- `ROM_SR[v][i]` (R33); index 3 has no entry. -/
def romSr (v : Version) (i : Nat) : Option Nat := (sampleRateRow v)[i]?

/-- `ROM_SPF[versionGroup v][l]` (R34). -/
def romSpf (v : Version) (l : Layer) : Nat :=
  match versionGroup v, l with
  | _, .i => 384
  | _, .ii => 1152
  | 0, .iii => 1152
  | _, .iii => 576

/-- DEC.SYNC (R100): all eleven bits are ones. -/
def decSync (h : Word) : Bool := syncBits h == 0x7FF#11

/-- DEC.CRC (R103): the protection bit is inverted (R86). -/
def decCrc (prot : BitVec 1) : Bool := prot == 0#1

/-- DEC.BITRATE (R104), in bits per second: index 15 and a table value of 0 are invalid. -/
def decBitrate (v : Version) (l : Layer) (bri : BitVec 4) : Option Nat :=
  match romBr v l bri.toNat with
  | none => none
  | some kbps => if kbps * 1000 = 0 then none else some (kbps * 1000)

/-- DEC.SAMPLERATE (R105), in Hz: index 3 is invalid. -/
def decSampleRate (v : Version) (sri : BitVec 2) : Option Nat := romSr v sri.toNat

/-- DEC.PADDING (R106). -/
def decPadding (pad : BitVec 1) : Bool := pad == 1#1

/-- DEC.CHMODE (R107, R85). -/
def decChannelMode (chm : BitVec 2) : ChannelMode :=
  if chm = 0b00#2 then .stereo else if chm = 0b01#2 then .jointStereo else if chm = 0b10#2 then .dualChannel else .mono

/-- FLEN.COEFF (R130). -/
def flenCoeff (sampleCount : Nat) : Nat := sampleCount / 8

/-- The Layer I coefficient `C1` (R131). -/
def layer1Constant (c : Layer1Coeff) (sampleCount : Nat) : Nat :=
  match c with
  | .doc => flenCoeff sampleCount
  | .iso => 12

/-- FLEN.L1 and FLEN.L23 (R131, R132), before the bound: multiply, divide truncating, add the padding slot. -/
def rawFrameLength (c : Layer1Coeff) (l : Layer) (sampleCount bitRate sampleRate : Nat) (padding : Bool) : Nat :=
  match l with
  | .i => (layer1Constant c sampleCount * bitRate / sampleRate + padding.toNat) * 4
  | .ii | .iii => flenCoeff sampleCount * bitRate / sampleRate + padding.toNat

/-- FLEN (R133): a length strictly above `MAX_FRAME_LEN` is invalid. -/
def frameLength (c : Layer1Coeff) (l : Layer) (sampleCount bitRate sampleRate : Nat) (padding : Bool) : Option Nat :=
  let fl := rawFrameLength c l sampleCount bitRate sampleRate padding
  if fl > maxFrameLen then none else some fl

/-- The decoded header of a word of class `(v, l)` with fields `f`, or `none` where it is invalid (R104 to R108, R133, and the
record of R109 narrowed to the widths of R25). -/
def decodeClass (c : Config) (v : Version) (l : Layer) (f : HdrFields) : Option Hdr :=
  match decBitrate v l f.bri, decSampleRate v f.sri with
  | some bitRate, some sampleRate =>
    match frameLength c.layer1Coeff l (romSpf v l) bitRate sampleRate (decPadding f.pad) with
    | none => none
    | some len => some {
        version := v
        vcode := versionCode v
        layer := l
        lcode := layerCode l
        bitRate := BitVec.ofNat 19 bitRate
        sampleRate := BitVec.ofNat 16 sampleRate
        channelMode := decChannelMode f.chm
        cmcode := f.chm
        crcPresent := decCrc f.prot
        padding := decPadding f.pad
        frameLengthBytes := BitVec.ofNat 15 len
        sampleCount := BitVec.ofNat 11 (romSpf v l)
        word := encodeClass v l f }
  | _, _ => none

/-- DECODE (R109) as the decoder unit computes it from `hdr_in` (R113), in the order of its pseudocode. `none` is INVALID.
`Obligations.DecoderUnitAgreesWithTheClasses` states that it agrees with `decodeClass` of the word's class. -/
def decodeUnit (c : Config) (h : Word) : Option Hdr :=
  if ¬ decSync h then none
  else match versionOf (h.extractLsb' 19 2) with
  | none => none
  | some v =>
    match layerOf (h.extractLsb' 17 2) with
    | none => none
    | some l =>
      if h.extractLsb' 12 4 = 15#4 then none
      else match romBr v l (h.extractLsb' 12 4).toNat with
      | none => none
      | some kbps =>
        if kbps * 1000 = 0 then none
        else if h.extractLsb' 10 2 = 3#2 then none
        else match romSr v (h.extractLsb' 10 2).toNat with
        | none => none
        | some sampleRate =>
          match frameLength c.layer1Coeff l (romSpf v l) (kbps * 1000) sampleRate (decPadding (h.extractLsb' 9 1)) with
          | none => none
          | some len => some {
              version := v
              vcode := h.extractLsb' 19 2
              layer := l
              lcode := h.extractLsb' 17 2
              bitRate := BitVec.ofNat 19 (kbps * 1000)
              sampleRate := BitVec.ofNat 16 sampleRate
              channelMode := decChannelMode (h.extractLsb' 6 2)
              cmcode := h.extractLsb' 6 2
              crcPresent := decCrc (h.extractLsb' 16 1)
              padding := decPadding (h.extractLsb' 9 1)
              frameLengthBytes := BitVec.ofNat 15 len
              sampleCount := BitVec.ofNat 11 (romSpf v l)
              word := h }

end Sys2Proof.Machine
end

