-- ==== Sys2Proof/Machine/Header.lean ====
section
/-! DEFINITION. The meaning of a candidate header in the window (SYNC.TRY, R157): one definition per header class and per
reject class of R88. -/

namespace Sys2Proof.Machine

/-- HDR_V1_LI (R88, R109). -/
def execHdrV1LI (f : HdrFields) (s : State) : Out := .next (tryCandidate (decodeClass s.cfg .v1 .i f) s)

/-- HDR_V1_LII. -/
def execHdrV1LII (f : HdrFields) (s : State) : Out := .next (tryCandidate (decodeClass s.cfg .v1 .ii f) s)

/-- HDR_V1_LIII. -/
def execHdrV1LIII (f : HdrFields) (s : State) : Out := .next (tryCandidate (decodeClass s.cfg .v1 .iii f) s)

/-- HDR_V2_LI. -/
def execHdrV2LI (f : HdrFields) (s : State) : Out := .next (tryCandidate (decodeClass s.cfg .v2 .i f) s)

/-- HDR_V2_LII. -/
def execHdrV2LII (f : HdrFields) (s : State) : Out := .next (tryCandidate (decodeClass s.cfg .v2 .ii f) s)

/-- HDR_V2_LIII. -/
def execHdrV2LIII (f : HdrFields) (s : State) : Out := .next (tryCandidate (decodeClass s.cfg .v2 .iii f) s)

/-- HDR_V25_LI. -/
def execHdrV25LI (f : HdrFields) (s : State) : Out := .next (tryCandidate (decodeClass s.cfg .v25 .i f) s)

/-- HDR_V25_LII. -/
def execHdrV25LII (f : HdrFields) (s : State) : Out := .next (tryCandidate (decodeClass s.cfg .v25 .ii f) s)

/-- HDR_V25_LIII. -/
def execHdrV25LIII (f : HdrFields) (s : State) : Out := .next (tryCandidate (decodeClass s.cfg .v25 .iii f) s)

/-- REJECT_NOSYNC (R87 row 1): INVALID, the window shifts (R158). -/
def execRejectNoSync (_sync : BitVec 11) (_rest : BitVec 21) (s : State) : Out := .next (tryCandidate none s)

/-- REJECT_RESERVED_VERSION (R87 row 2). -/
def execRejectReservedVersion (_rest : BitVec 19) (s : State) : Out := .next (tryCandidate none s)

/-- REJECT_RESERVED_LAYER (R87 row 3). -/
def execRejectReservedLayer (_ver : BitVec 2) (_rest : BitVec 17) (s : State) : Out := .next (tryCandidate none s)

end Sys2Proof.Machine
end

