-- ==== Sys2Proof/Machine/Dispatch.lean ====
section
/-! DEFINITION. One arm per instruction: which meaning it has. -/

namespace Sys2Proof.Machine

def exec (i : Instr) (s : State) : Host.Outcome State Fault Refusal :=
  match i with
  | .hdrV1LI f => Sys2Proof.Machine.execHdrV1LI f s
  | .hdrV1LII f => Sys2Proof.Machine.execHdrV1LII f s
  | .hdrV1LIII f => Sys2Proof.Machine.execHdrV1LIII f s
  | .hdrV2LI f => Sys2Proof.Machine.execHdrV2LI f s
  | .hdrV2LII f => Sys2Proof.Machine.execHdrV2LII f s
  | .hdrV2LIII f => Sys2Proof.Machine.execHdrV2LIII f s
  | .hdrV25LI f => Sys2Proof.Machine.execHdrV25LI f s
  | .hdrV25LII f => Sys2Proof.Machine.execHdrV25LII f s
  | .hdrV25LIII f => Sys2Proof.Machine.execHdrV25LIII f s
  | .rejectNoSync sync rest => Sys2Proof.Machine.execRejectNoSync sync rest s
  | .rejectReservedVersion rest => Sys2Proof.Machine.execRejectReservedVersion rest s
  | .rejectReservedLayer ver rest => Sys2Proof.Machine.execRejectReservedLayer ver rest s
  | .nop ign => Sys2Proof.Machine.execNop ign s
  | .nextFrame ign => Sys2Proof.Machine.execNextFrame ign s
  | .nextHeader ign => Sys2Proof.Machine.execNextHeader ign s
  | .cmdReserved ign => Sys2Proof.Machine.execCmdReserved ign s

end Sys2Proof.Machine
end

