-- ==== Sys2Proof/Machine/HostPort.lean ====
section
/-! DEFINITION. The host register port (R40 to R50, R65): reads, and writes of which only CMD has an effect. -/

namespace Sys2Proof.Machine

/-- The first offset of the FB window (R40). -/
def fbBase : Nat := 0x10000

/-- The offset lies in the FB window 0x10000 to 0x13FFF (R40). -/
def inFbWindow (offset : Nat) : Bool := decide (fbBase ≤ offset) && decide (offset < fbBase + fbSize)

/-- A register access is a whole word at a multiple of 4 (R40, R65). -/
def wordAccess (offset width : Nat) : Bool := decide (width = 4) && decide (offset % 4 = 0)

/-- A result register: its value where R50 makes it valid. -/
def resultRegister (s : State) (v : Word) : Option Word := if resultsValid s then some v else none

/-- The value the host reads at a word offset outside FB; an unmapped offset reads 0, CMD reads 0 (R40 to R48). -/
def readRegister (s : State) (offset : Nat) : Option Word :=
  match offset with
  | 0x00 => some 0
  | 0x04 => some (statusWord s)
  | 0x08 => resultRegister s s.hdr.word
  | 0x0C => resultRegister s (infoWord s.hdr)
  | 0x10 => resultRegister s (s.hdr.bitRate.zeroExtend 32)
  | 0x14 => resultRegister s (s.hdr.sampleRate.zeroExtend 32)
  | 0x18 => resultRegister s (s.hdr.frameLengthBytes.zeroExtend 32)
  | 0x1C => resultRegister s (s.hdr.sampleCount.zeroExtend 32)
  | _ => some 0

/-- `FB[i]` as the host sees it (R49): defined only for the bytes of the frame a FULL command delivered (R74). -/
def readFb (s : State) (i : Nat) : Option Byte :=
  if resultsValid s ∧ s.mode = .full ∧ i < s.hdr.frameLengthBytes.toNat then Memory.read s.fb i else none

/-- A host read. It changes nothing of the block (R40); the value goes to `rdata`. -/
def hostRead (offset width : Nat) (s : State) : Out :=
  if inFbWindow offset then
    if width = 1 then
      match readFb s (offset - fbBase) with
      | some b => .next { s with rdata := b.zeroExtend 32 }
      | none => .fault .hostUndefinedFb
    else .fault .hostBadAccess
  else if wordAccess offset width then
    match readRegister s offset with
    | some v => .next { s with rdata := v }
    | none => .fault .hostUndefinedRegister
  else .fault .hostBadAccess

/-- A host write: CMD runs the command its code names (R41, R150); a write elsewhere is ignored (R40). -/
def hostWrite (offset width : Nat) (value : Word) (s : State) : Out :=
  if inFbWindow offset then
    if width = 1 then .next s else .fault .hostBadAccess
  else if wordAccess offset width then
    if offset = 0 then exec (decode .command value) s else .next s
  else .fault .hostBadAccess

end Sys2Proof.Machine
end

