-- ==== Sys2Proof/Machine/Unwrapper.lean ====
section
/-! DEFINITION. The container unwrapper (R190 to R200), cut at its source transactions: what the block does with the response
each context of R192 waits for. -/

namespace Sys2Proof.Machine

/-- ASCII "RIFF" (R190). -/
def riffSignature : Quad := { b0 := 0x52, b1 := 0x49, b2 := 0x46, b3 := 0x46 }

/-- ASCII "data" (R195). -/
def dataId : Quad := { b0 := 0x64, b1 := 0x61, b2 := 0x74, b3 := 0x61 }

/-- The number of four bytes, least significant first (R194). -/
def littleEndian (q : Quad) : Nat :=
  q.b0.toNat + q.b1.toNat * 2 ^ 8 + q.b2.toNat * 2 ^ 16 + q.b3.toNat * 2 ^ 24

/-- UNWRAP begins: wait for the rewind `Seek(0)` (R192). -/
def startUnwrap (s : State) : State := { s with ctx := .rewind }

/-- The rewind is answered: `upos <- 0`, then the first of the 12 header bytes (R193). -/
def afterRewind (r : Response) (s : State) : Out :=
  onSeek r s fun s => .next { s with upos := 0, ctx := .riffHeader 0 }

/-- Byte `k` of the 12-byte RIFF header is read and discarded (R193); after the last `upos <- 12`. -/
def afterRiffHeader (k : Nat) (r : Response) (s : State) : Out :=
  onByte r .formatError s fun _ s =>
    if k + 1 < 12 then .next { s with ctx := .riffHeader (k + 1) }
    else .next { s with upos := 12, ctx := .chunkId 0 }

/-- `id[k] <- Read()` (R194). -/
def afterChunkId (k : Nat) (r : Response) (s : State) : Out :=
  onByte r .formatError s fun b s =>
    .next { s with cid := s.cid.set k b, ctx := if k + 1 < 4 then .chunkId (k + 1) else .chunkSize 0 }

/-- Where the walk goes on after skipping a chunk whose content starts at `start` (R196). -/
def skipTarget (c : Config) (start size : Nat) : Nat :=
  start + size + (if c.riffPadOdd ∧ size % 2 = 1 then 1 else 0)

/-- A whole chunk header is read: `upos <- upos + 8`; at "data" seek to its content (R195), else past the chunk (R196).
A target outside `upos`'s 64 bits is refused (U15). -/
def chunkDone (s : State) : Out :=
  if s.cid = dataId then
    if s.upos + 8 < 2 ^ posWidth then .next { s with upos := s.upos + 8, ctx := .seekData }
    else .refused .seekTargetTooWide
  else
    let target := skipTarget s.cfg (s.upos + 8) (littleEndian s.csz)
    if target < 2 ^ posWidth then .next { s with upos := target, ctx := .seekSkip }
    else .refused .seekTargetTooWide

/-- `sz[k] <- Read()` (R194). -/
def afterChunkSize (k : Nat) (r : Response) (s : State) : Out :=
  onByte r .formatError s fun b s =>
    let s := { s with csz := s.csz.set k b }
    if k + 1 < 4 then .next { s with ctx := .chunkSize (k + 1) } else chunkDone s

/-- The seek to the data content is answered: the unwrap is over, FILL4 runs from there (R192, R156). -/
def afterSeekData (r : Response) (s : State) : Out := onSeek r s fun s => .next (startFill s)

/-- The seek past a chunk is answered: read the next chunk header (R192). -/
def afterSeekSkip (r : Response) (s : State) : Out := onSeek r s fun s => .next { s with ctx := .chunkId 0 }

end Sys2Proof.Machine
end

