-- ==== Sys2Proof/Machine/Sequencer.lean ====
section
/-! DEFINITION. What one input does: a source response moves the command in progress to its next transaction (R166, R172), a
host access goes to the register port, reset and a new source as Ops says. -/

namespace Sys2Proof.Machine

/-- The window is complete: the word in it is the next instruction (SYNC.TRY, R157). -/
def tryWindow (s : State) : Out := exec (decode .header (windowWord s.w)) s

/-- SYNC.RIFFCHECK after a complete fill (R156), else straight to SYNC.TRY. -/
def afterFillDone (s : State) : Out :=
  if s.riffChecked then tryWindow s
  else
    let s := { s with riffChecked := true }
    if s.w = riffSignature then .next (startUnwrap s) else tryWindow s

/-- FILL4 gets a byte: `W[wfill] <- b; wfill <- wfill + 1` (R155). -/
def afterFill (r : Response) (s : State) : Out :=
  onByte r .clean s fun b s =>
    let s := { s with w := s.w.set s.wfill b, wfill := s.wfill + 1 }
    if s.wfill < 4 then .next s else afterFillDone s

/-- SHIFT1 gets its byte: `W[3] <- b`, then SYNC.TRY (R158). -/
def afterShift (r : Response) (s : State) : Out :=
  onByte r .clean s fun b s => tryWindow { s with w := s.w.set 3 b }

/-- EMIT.PAYLOAD gets a byte (R162): store it in FULL mode, count it, test the loop. -/
def afterPayload (r : Response) (s : State) : Out :=
  onByte r .truncated s fun b s =>
    match storePayload s s.pcnt b with
    | .next s => .next (payloadLoop { s with pcnt := s.pcnt + 1 })
    | .fault e => .fault e
    | .refused e => .refused e

/-- The command in progress takes the response it waits for (R172). -/
def react (r : Response) (s : State) : Out :=
  match s.ctx with
  | .idle => .next s
  | .fill => afterFill r s
  | .shift => afterShift r s
  | .payload => afterPayload r s
  | .rewind => afterRewind r s
  | .riffHeader k => afterRiffHeader k r s
  | .chunkId k => afterChunkId k r s
  | .chunkSize k => afterChunkSize k r s
  | .seekData => afterSeekData r s
  | .seekSkip => afterSeekSkip r s

/-- The source answers its oldest outstanding transaction: one abandoned by a reset, whose response is discarded (R230, U22),
or the one the command waits for. With none outstanding nothing happens (R221). -/
def sourceAnswers (d : Draw) (s : State) : Out :=
  match s.stale with
  | t :: ts => .next (performTxn t d { s with stale := ts }).2
  | [] =>
    match pendingTxn s with
    | none => .next s
    | some t => react (performTxn t d s).1 (performTxn t d s).2

/-- The effect of one input. -/
def takeEvent (e : Event) (s : State) : Out :=
  match e with
  | .hostWrite offset width value => hostWrite offset width value s
  | .hostRead offset width => hostRead offset width s
  | .rst => .next (hardReset s)
  | .answer d => sourceAnswers d s
  | .bind contents => bindSource contents s

/-- `bs` written over `xs` from position `c`; a gap before `c` is filled with zeros. -/
def overwrite (xs : List Byte) (c : Nat) (bs : List Byte) : List Byte :=
  xs.take c ++ List.replicate (c - xs.length) 0 ++ bs ++ xs.drop (c + bs.length)

/-- The machine with `h` as the next candidate header: its four bytes stand in the source at the cursor, the first three are
read, and the answer that completes the window is the next input (log 14). -/
def placeHeader (s : State) (h : Word) : State :=
  { s with
    phase := .seeking, exkind := none, busy := true, done := false, ctx := .shift, stale := [],
    w := { b0 := headerByte h 0, b1 := headerByte h 1, b2 := headerByte h 2, b3 := s.w.b3 },
    src := overwrite s.src s.cursor [headerByte h 0, headerByte h 1, headerByte h 2, headerByte h 3],
    cursor := s.cursor + 3,
    env := .answer .normal :: s.env }

/-- The machine with a write of `w` to CMD as its next input (log 14). -/
def placeCommand (s : State) (w : Word) : State := { s with env := .hostWrite 0 4 w :: s.env }

end Sys2Proof.Machine
end

