-- ==== Sys2Proof/Machine/Step.lean ====
section
/-! DEFINITION. One step: the next input takes effect. With no input to come the block idles or stalls (R221, R239). -/

namespace Sys2Proof.Machine

/-- One step of the machine. -/
def step (s : State) : Host.Outcome State Fault Refusal :=
  match s.env with
  | [] => .next s
  | e :: rest => takeEvent e { s with env := rest }

/-- `s` with a table word placed where the next step takes its instruction from: a CMD write, or a candidate header whose last
byte is about to arrive (log 14). -/
def State.withFetchWord (s : State) (_nbits w : Nat) : State :=
  match tablePort w with
  | .command => placeCommand s (BitVec.ofNat 32 w)
  | .header => placeHeader s (BitVec.ofNat 32 w)

end Sys2Proof.Machine
end

