-- ==== Sys2Proof/Safety.lean ====
section
/-! DEFINITION. The terms claims use: the invariant of the machine, runs of a command, and the relations between two runs. -/

namespace Sys2Proof.Machine

/-- The unwrapper is running (R192). -/
def Ctx.unwrapping : Ctx → Bool
  | .rewind | .riffHeader _ | .chunkId _ | .chunkSize _ | .seekData | .seekSkip => true
  | .idle | .fill | .shift | .payload => false

/-- The loop counter of a context is in its loop's range (R192). -/
def Ctx.counterInRange : Ctx → Bool
  | .riffHeader k => decide (k < 12)
  | .chunkId k | .chunkSize k => decide (k < 4)
  | .idle | .fill | .shift | .payload | .rewind | .seekData | .seekSkip => true

/-- The cursor stands where the unwrapper's loops put it (R192, R73). -/
def Ctx.cursorInPlace (c : Ctx) (upos cursor : Nat) : Prop :=
  match c with
  | .riffHeader k => cursor = k
  | .chunkId k => cursor = upos + k
  | .chunkSize k => cursor = upos + 4 + k
  | .idle | .fill | .shift | .payload | .rewind | .seekData | .seekSkip => True

/-- The bytes of the frame read so far stand in FB, the first four being the header's own (R161, R162, R29). -/
def fbHolds (m : Memory) (h : Hdr) (n : Nat) : Prop :=
  (∀ i, i < n → (Memory.read m i).isSome) ∧ ∀ k, k < 4 → Memory.read m k = some (headerByte h.word k)

/-- What holds in every state between two steps. -/
structure State.Inv (s : State) : Prop where
  /-- FB keeps its canonical form (R60). -/
  fbWf : Memory.wf s.fb
  /-- R24. -/
  wfillLe : s.wfill ≤ 4
  /-- R26. -/
  pcntLe : s.pcnt ≤ maxFrameLen
  /-- R30: busy exactly while a command is in progress. -/
  busyIff : s.busy = true ↔ s.ctx ≠ .idle
  /-- R30, R150. -/
  busyNotDone : s.busy = true → s.done = false
  /-- R30, R92. -/
  doneHasResult : s.done = true → s.result ≠ .none
  /-- R21: EMITTING holds only while a command reads a payload. -/
  emittingIff : s.phase = .emitting ↔ s.ctx = .payload
  /-- R22: `exkind` has a value exactly in EXHAUSTED. -/
  exhaustedIff : s.phase = .exhausted ↔ s.exkind.isSome = true
  /-- R154, R214: in EXHAUSTED the last command is complete and its result is the terminal code. -/
  exhaustedDone : ∀ k, s.exkind = some k → s.busy = false ∧ s.done = true ∧ s.result = exhaustResult k
  /-- R155. -/
  fillOpen : s.ctx = .fill → s.wfill < 4
  /-- R160, R162, R135: a payload is read of a latched valid header, within its length. -/
  payloadOpen : s.ctx = .payload → 4 ≤ s.pcnt ∧ s.pcnt < s.hdr.frameLengthBytes.toNat ∧
    decodeUnit s.cfg s.hdr.word = some s.hdr
  /-- R50: valid result registers hold a decoded header. -/
  frameHeader : resultsValid s = true → decodeUnit s.cfg s.hdr.word = some s.hdr
  /-- R161, R162. -/
  payloadStored : s.ctx = .payload → s.mode = .full → fbHolds s.fb s.hdr s.pcnt
  /-- R74: after a FULL frame every byte of it has a value, the first four the header's. -/
  frameStored : resultsValid s = true → s.mode = .full → fbHolds s.fb s.hdr s.hdr.frameLengthBytes.toNat
  /-- R156, R191. -/
  unwrapChecked : s.ctx.unwrapping = true → s.riffChecked = true
  /-- R192. -/
  counterInRange : s.ctx.counterInRange = true
  /-- R192. -/
  cursorInPlace : s.ctx.cursorInPlace s.upos s.cursor
  /-- R199: the source can be addressed. -/
  srcShort : s.src.length < 2 ^ 63
  /-- R230: a discarded response precedes every response to a command begun after the reset (log 8). -/
  staleFirst : s.stale ≠ [] → s.ctx = .idle ∨ (s.ctx = .fill ∧ s.wfill = 0)

/-- The candidate header at position `i` of a stream (R157). -/
def headerAt (bs : List Byte) (i : Nat) : Option Word :=
  match bs[i]?, bs[i + 1]?, bs[i + 2]?, bs[i + 3]? with
  | some b0, some b1, some b2, some b3 => some (headerWord b0 b1 b2 b3)
  | _, _, _, _ => none

/-- `n` steps of the machine. -/
def run (n : Nat) (s : State) : Out := Sys2Proof.core.run n s

/-- `n` normal answers of the source. -/
def answers (n : Nat) : List Event := List.replicate n (.answer .normal)

/-- The CMD word of a mode's command (R90), its ignored bits `ign`. -/
def commandWord (m : Mode) (ign : BitVec 30) : Word :=
  match m with
  | .full => encode (.nextFrame ign)
  | .headerOnly => encode (.nextHeader ign)

/-- `s` with a command of mode `m` written to CMD and then `n` answers of the source as its inputs. -/
def State.commanded (s : State) (m : Mode) (ign : BitVec 30) (n : Nat) : State :=
  { s with env := .hostWrite 0 4 (commandWord m ign) :: answers n }

/-- Right after reset, with a source bound at position 0 (R232). -/
def State.booted (c : Config) (bs : List Byte) : State := { State.reset with cfg := c, src := bs }

/-- The command goes on to be accepted: the block is idle in SEEKING, and the source is at position 0 if it is the first
command after reset (R150, R232). -/
def State.ready (s : State) : Prop :=
  s.busy = false ∧ s.phase = .seeking ∧ (s.result ≠ .none ∨ s.cursor = 0)

/-- What `Exhaust(k)` leaves of a state (R168, R214). -/
def State.ended (s : State) (k : ExKind) (r : Result) : State :=
  { s with phase := .exhausted, exkind := some k, result := r, busy := false, done := true, ctx := .idle }

/-- Two states that differ in nothing but mode and FB (R153). -/
def sameButFb (s t : State) : Prop := t = { s with mode := t.mode, fb := t.fb }

/-- `s` runs on `P ++ D` where `t` runs on `D`, past the container check, at the same place of `D` (R200). -/
def shiftedBy (P : List Byte) (s t : State) : Prop :=
  s = { t with src := P ++ t.src, cursor := P.length + t.cursor } ∧
  t.riffChecked = true ∧ t.ctx.unwrapping = false ∧ t.stale = [] ∧ (t.busy = true ∨ t.result ≠ .none)

/-- The bytes of a four-byte register in stream order. -/
def Quad.bytes (q : Quad) : List Byte := [q.b0, q.b1, q.b2, q.b3]

/-- A sub-chunk the walk skips: identifier, size field, and the bytes after its 8-byte header up to the next chunk (R194, R196). -/
structure Chunk where
  id : Quad
  size : Quad
  body : List Byte
  deriving DecidableEq, Repr

/-- The bytes of a sub-chunk. -/
def Chunk.bytes (k : Chunk) : List Byte := k.id.bytes ++ k.size.bytes ++ k.body

/-- A RIFF envelope up to the content of its "data" chunk: the signature, 8 bytes `header`, the chunks before "data", and the
header of "data" with size field `size` (R190, R193 to R196). -/
def envelope (header : List Byte) (chunks : List Chunk) (size : Quad) : List Byte :=
  riffSignature.bytes ++ header ++ chunks.flatMap Chunk.bytes ++ dataId.bytes ++ size.bytes

/-- Two outcomes of the same kind, next states related by `R`. -/
def outcomesRelated (R : State → State → Prop) : Out → Out → Prop
  | .next s, .next t => R s t
  | .fault e, .fault f => e = f
  | .refused e, .refused f => e = f
  | _, _ => False

end Sys2Proof.Machine
end

