-- ==== Sys2Proof/Certificates/Slice0/Obligations.lean ====
section
/-! DEFINITION. The statements for the provers, in the order of OBLIGATIONS.json. -/

open Sys2Proof Sys2Proof.Machine

/-! ### Encoding -/

/-- R88, R90: a few words written out from the encoding tables decode to what they stand for. -/
def Obligations.TableWordsDecode : Prop :=
  decodeHeader 0xFFFB9064#32 = .hdrV1LIII { prot := 1, bri := 9, sri := 0, pad := 0, ignA := 0, chm := 1, ignB := 36 } ∧
  decodeHeader 0xFFE7EA00#32 = .hdrV25LI { prot := 1, bri := 14, sri := 2, pad := 1, ignA := 0, chm := 0, ignB := 0 } ∧
  decodeHeader 0xFFF590C0#32 = .hdrV2LII { prot := 1, bri := 9, sri := 0, pad := 0, ignA := 0, chm := 3, ignB := 0 } ∧
  decodeHeader 0x52494646#32 = .rejectNoSync 0x292 0x94646 ∧
  decodeHeader 0xFFEB9064#32 = .rejectReservedVersion 0x39064 ∧
  decodeHeader 0xFFF99064#32 = .rejectReservedLayer 3 0x19064 ∧
  decodeCommand 0x00000000#32 = .nop 0 ∧
  decodeCommand 0x00000001#32 = .nextFrame 0 ∧
  decodeCommand 0x00000002#32 = .nextHeader 0 ∧
  decodeCommand 0x80000003#32 = .cmdReserved 0x20000000

/-- Decoding the word of a well-formed instruction at its port gives the instruction back, every operand at every value
(R80, R83, R84, R88, R90). -/
def Obligations.DecodeOfEncodeIsIdentity : Prop :=
  ∀ i : Instr, i.wf = true → decode i.port (encode i) = i

/-- Every word of either port is the encoding of what it decodes to, a well-formed instruction of that port: no bit is
dropped (R80, R88, R90). -/
def Obligations.EncodeOfDecodeIsIdentity : Prop :=
  ∀ (p : Port) (w : Word), encode (decode p w) = w ∧ (decode p w).port = p ∧ (decode p w).wf = true

/-- R88: the nine classes and the reject classes by mask and match, and when a word of a class is valid. A word that is both
of the reserved-version and of the reserved-layer class is a `rejectReservedVersion` term (log 13). -/
def Obligations.HeaderClassesByMaskAndMatch : Prop :=
  (∀ h : Word,
    ((∃ f, decodeHeader h = .hdrV1LI f) ↔ h &&& 0xFFFE0000#32 = 0xFFFE0000#32) ∧
    ((∃ f, decodeHeader h = .hdrV1LII f) ↔ h &&& 0xFFFE0000#32 = 0xFFFC0000#32) ∧
    ((∃ f, decodeHeader h = .hdrV1LIII f) ↔ h &&& 0xFFFE0000#32 = 0xFFFA0000#32) ∧
    ((∃ f, decodeHeader h = .hdrV2LI f) ↔ h &&& 0xFFFE0000#32 = 0xFFF60000#32) ∧
    ((∃ f, decodeHeader h = .hdrV2LII f) ↔ h &&& 0xFFFE0000#32 = 0xFFF40000#32) ∧
    ((∃ f, decodeHeader h = .hdrV2LIII f) ↔ h &&& 0xFFFE0000#32 = 0xFFF20000#32) ∧
    ((∃ f, decodeHeader h = .hdrV25LI f) ↔ h &&& 0xFFFE0000#32 = 0xFFE60000#32) ∧
    ((∃ f, decodeHeader h = .hdrV25LII f) ↔ h &&& 0xFFFE0000#32 = 0xFFE40000#32) ∧
    ((∃ f, decodeHeader h = .hdrV25LIII f) ↔ h &&& 0xFFFE0000#32 = 0xFFE20000#32) ∧
    ((∃ a b, decodeHeader h = .rejectNoSync a b) ↔ h &&& 0xFFE00000#32 ≠ 0xFFE00000#32) ∧
    ((∃ a, decodeHeader h = .rejectReservedVersion a) ↔ h &&& 0xFFF80000#32 = 0xFFE80000#32) ∧
    ((∃ a b, decodeHeader h = .rejectReservedLayer a b) ∨
      ((∃ a, decodeHeader h = .rejectReservedVersion a) ∧ layBits h = 0b00#2) ↔
        h &&& 0xFFE60000#32 = 0xFFE00000#32)) ∧
  (∀ (c : Config) (h : Word) (v : Version) (l : Layer) (f : HdrFields), decodeHeader h = classInstr v l f →
    ((decodeUnit c h).isSome = true ↔ f.bri ≠ 0#4 ∧ f.bri ≠ 15#4 ∧ f.sri ≠ 3#2)) ∧
  (∀ (c : Config) (h : Word), (∀ v l f, decodeHeader h ≠ classInstr v l f) → decodeUnit c h = none)

/-! ### Header decoder and frame length -/

/-- Scenario 1 (95_test_vectors.md L1.1). -/
def Obligations.ScenarioOneHeaderDecodes : Prop :=
  decodeUnit Config.default 0xFFFB9064#32 = some {
    version := .v1, vcode := 3, layer := .iii, lcode := 1, bitRate := 128000, sampleRate := 44100,
    channelMode := .jointStereo, cmcode := 1, crcPresent := false, padding := false,
    frameLengthBytes := 417, sampleCount := 1152, word := 0xFFFB9064 }

/-- The decoder unit, which reads the word, agrees with the class path, which reads the instruction (R109, R110, R113). -/
def Obligations.DecoderUnitAgreesWithTheClasses : Prop :=
  ∀ (c : Config) (h : Word),
    (∀ v l f, decodeHeader h = classInstr v l f → decodeUnit c h = decodeClass c v l f) ∧
    ((∀ v l f, decodeHeader h ≠ classInstr v l f) → decodeUnit c h = none)

/-- R87: exactly the seven conditions make a header invalid; with the tables, the fifth holds exactly for index 0 and the
seventh never. -/
def Obligations.HeaderInvalidExactlyWhen : Prop :=
  (∀ (c : Config) (h : Word), decodeUnit c h = none ↔
    (h.extractLsb' 24 8 ≠ 0xFF#8 ∨ h.extractLsb' 21 3 ≠ 0b111#3) ∨
    h.extractLsb' 19 2 = 0b01#2 ∨
    h.extractLsb' 17 2 = 0b00#2 ∨
    h.extractLsb' 12 4 = 15#4 ∨
    (∃ v l, versionOf (h.extractLsb' 19 2) = some v ∧ layerOf (h.extractLsb' 17 2) = some l ∧
      romBr v l (h.extractLsb' 12 4).toNat = some 0) ∨
    h.extractLsb' 10 2 = 3#2 ∨
    (∃ v l k r, versionOf (h.extractLsb' 19 2) = some v ∧ layerOf (h.extractLsb' 17 2) = some l ∧
      romBr v l (h.extractLsb' 12 4).toNat = some k ∧ romSr v (h.extractLsb' 10 2).toNat = some r ∧
      maxFrameLen < rawFrameLength c.layer1Coeff l (romSpf v l) (k * 1000) r (decPadding (h.extractLsb' 9 1)))) ∧
  (∀ (v : Version) (l : Layer) (i : Nat), romBr v l i = some 0 ↔ i = 0) ∧
  (∀ (c : Layer1Coeff) (v : Version) (l : Layer) (i j k r : Nat) (p : Bool), romBr v l i = some k → romSr v j = some r →
    rawFrameLength c l (romSpf v l) (k * 1000) r p ≤ maxFrameLen)

/-- R82: `H[8]` and `H[5:0]` change nothing but `word`. -/
def Obligations.IgnoredHeaderBitsChangeOnlyTheWord : Prop :=
  ∀ (c : Config) (h h' : Word), h &&& 0xFFFFFEC0#32 = h' &&& 0xFFFFFEC0#32 →
    decodeUnit c h' = (decodeUnit c h).map fun d => { d with word := h' }

/-- R101 to R109, R130 to R132: every field of a decoded header, no value lost to the width of its register. -/
def Obligations.DecodedFieldsFollowTheTables : Prop :=
  ∀ (c : Config) (v : Version) (l : Layer) (f : HdrFields) (h : Hdr), decodeClass c v l f = some h →
    ∃ k r, romBr v l f.bri.toNat = some k ∧ romSr v f.sri.toNat = some r ∧
      h.version = v ∧ h.vcode = versionCode v ∧ h.layer = l ∧ h.lcode = layerCode l ∧
      h.bitRate.toNat = k * 1000 ∧ h.sampleRate.toNat = r ∧
      h.channelMode = decChannelMode f.chm ∧ h.cmcode = f.chm ∧
      (h.crcPresent = true ↔ f.prot = 0#1) ∧ (h.padding = true ↔ f.pad = 1#1) ∧
      h.sampleCount.toNat = romSpf v l ∧ h.word = encodeClass v l f ∧
      h.frameLengthBytes.toNat =
        if l = .i then
          ((if c.layer1Coeff = .doc then romSpf v l / 8 else 12) * (k * 1000) / r + f.pad.toNat) * 4
        else romSpf v l / 8 * (k * 1000) / r + f.pad.toNat

/-- R112: the Frame invariants of every valid DECODE result. -/
def Obligations.ValidHeadersMeetTheFrameInvariants : Prop :=
  ∀ (c : Config) (w : Word) (h : Hdr), decodeUnit c w = some h →
    0 < h.bitRate.toNat ∧
    h.sampleRate.toNat ∈ [44100, 48000, 32000, 22050, 24000, 16000, 11025, 12000, 8000] ∧
    h.sampleCount.toNat = romSpf h.version h.layer ∧
    24 ≤ h.frameLengthBytes.toNat ∧ h.frameLengthBytes.toNat ≤ 16384 ∧ h.frameLengthBytes.toNat ≤ 6148

/-- R135: the range of frame lengths under each Layer I constant, with headers that reach its ends. -/
def Obligations.FrameLengthRange : Prop :=
  (∀ (c : Config) (w : Word) (h : Hdr), decodeUnit c w = some h →
    24 ≤ h.frameLengthBytes.toNat ∧
    (c.layer1Coeff = .doc → h.frameLengthBytes.toNat ≤ 6148) ∧
    (c.layer1Coeff = .iso → h.frameLengthBytes.toNat ≤ 2881) ∧
    h.frameLengthBytes.toNat ≤ maxFrameLen ∧ 20 ≤ h.frameLengthBytes.toNat - 4) ∧
  (∀ c : Config, (decodeUnit c 0xFFF314C0#32).map (·.frameLengthBytes.toNat) = some 24) ∧
  (∀ c : Config, c.layer1Coeff = .doc → (decodeUnit c 0xFFE7EA00#32).map (·.frameLengthBytes.toNat) = some 6148) ∧
  (∀ c : Config, c.layer1Coeff = .iso → (decodeUnit c 0xFFE5EA00#32).map (·.frameLengthBytes.toNat) = some 2881)

/-- R134: the products and quotients of the frame-length arithmetic stay in range, and no divisor is zero. -/
def Obligations.FrameLengthArithmeticFits : Prop :=
  ∀ (v : Version) (l : Layer) (i j k r : Nat), romBr v l i = some k → romSr v j = some r →
    r ≠ 0 ∧ romSpf v l / 8 * (k * 1000) ≤ 55296000 ∧ 55296000 < 2 ^ 26 ∧
    romSpf v l / 8 * (k * 1000) / r ≤ 2880 ∧
    (l = .i → romSpf v l / 8 * (k * 1000) ≤ 21504000 ∧ 12 * (k * 1000) ≤ 5376000)

/-! ### Candidate headers -/

/-- R160, R161: each of the nine header classes, with fields that make it valid, is latched, its four bytes copied in FULL
mode, and the block waits for the payload. Nothing else changes. -/
def Obligations.ValidHeaderIsLatchedAndCopied : Prop :=
  ∀ (v : Version) (l : Layer) (f : HdrFields) (s : State), f.bri ≠ 0#4 → f.bri ≠ 15#4 → f.sri ≠ 3#2 →
    ∃ h m, decodeClass s.cfg v l f = some h ∧
      exec (classInstr v l f) s =
        .next { s with hdr := h, phase := .emitting, pcnt := 4, ctx := .payload, fb := m } ∧
      (s.mode = .full → Memory.read m 0 = some s.w.b0 ∧ Memory.read m 1 = some s.w.b1 ∧
        Memory.read m 2 = some s.w.b2 ∧ Memory.read m 3 = some s.w.b3 ∧
        ∀ a, 4 ≤ a → Memory.read m a = Memory.read s.fb a) ∧
      (s.mode = .headerOnly → m = s.fb)

/-- R87, R157, R158: a header class with an invalid field, and each reject class, slides the window by one byte, waits for the
next, and changes nothing else. -/
def Obligations.InvalidHeaderShiftsTheWindow : Prop :=
  ∀ s : State,
    (∀ v l (f : HdrFields), (f.bri = 0#4 ∨ f.bri = 15#4 ∨ f.sri = 3#2) → exec (classInstr v l f) s =
      .next { s with w := { b0 := s.w.b1, b1 := s.w.b2, b2 := s.w.b3, b3 := s.w.b3 }, ctx := .shift }) ∧
    (∀ a b, exec (.rejectNoSync a b) s =
      .next { s with w := { b0 := s.w.b1, b1 := s.w.b2, b2 := s.w.b3, b3 := s.w.b3 }, ctx := .shift }) ∧
    (∀ a, exec (.rejectReservedVersion a) s =
      .next { s with w := { b0 := s.w.b1, b1 := s.w.b2, b2 := s.w.b3, b3 := s.w.b3 }, ctx := .shift }) ∧
    (∀ a b, exec (.rejectReservedLayer a b) s =
      .next { s with w := { b0 := s.w.b1, b1 := s.w.b2, b2 := s.w.b3, b3 := s.w.b3 }, ctx := .shift })

/-! ### Commands -/

/-- R151, R91: NOP and the reserved code change no state, busy or not, as instructions and as writes to CMD whatever their
ignored bits. -/
def Obligations.NopAndReservedChangeNothing : Prop :=
  (∀ (ign : BitVec 30) (s : State), exec (.nop ign) s = .next s ∧ exec (.cmdReserved ign) s = .next s) ∧
  (∀ (s : State) (v : Word) (rest : List Event), s.env = .hostWrite 0 4 v :: rest →
    (v.extractLsb' 0 2 = 0b00#2 ∨ v.extractLsb' 0 2 = 0b11#2) → step s = .next { s with env := rest })

/-- R150, R152, R153, R155: NEXT_FRAME and NEXT_HEADER accepted in SEEKING set `busy`, clear `done`, set `mode`, keep
`result`, and start FILL4. That the first command needs the source at position 0 is the refusal of log 7 (R232, U16). -/
def Obligations.NextCommandsAreAccepted : Prop :=
  ∀ (s : State) (ign : BitVec 30), s.ready →
    exec (.nextFrame ign) s =
      .next { s with busy := true, done := false, mode := .full, wfill := 0, ctx := .fill } ∧
    exec (.nextHeader ign) s =
      .next { s with busy := true, done := false, mode := .headerOnly, wfill := 0, ctx := .fill }

/-- R150, R234: a write to CMD while busy is ignored, whatever its value. -/
def Obligations.CommandWhileBusyIsIgnored : Prop :=
  ∀ (s : State) (v : Word) (rest : List Event), s.busy = true → s.env = .hostWrite 0 4 v :: rest →
    step s = .next { s with env := rest }

/-- R154: in EXHAUSTED both commands complete at once with the code of `exkind`, no source transaction, `phase` and `exkind`
unchanged. -/
def Obligations.ExhaustedCommandRepeatsItsCode : Prop :=
  ∀ (s : State) (ign : BitVec 30) (k : ExKind), s.busy = false → s.phase = .exhausted → s.exkind = some k →
    ∃ r, (k = .clean → r = Result.eosClean) ∧ (k = .truncated → r = Result.eosTruncated) ∧
      (k = .formatError → r = Result.formatError) ∧ (k = .sourceError → r = Result.sourceError) ∧
      exec (.nextFrame ign) s =
        .next { s with result := r, mode := .full, busy := false, done := true, ctx := .idle } ∧
      exec (.nextHeader ign) s =
        .next { s with result := r, mode := .headerOnly, busy := false, done := true, ctx := .idle }

/-- The model's refusal (log 7) of a first command with the source elsewhere than at position 0: R232, U16. -/
def Obligations.FirstCommandNeedsTheStreamStart : Prop :=
  ∀ (s : State) (ign : BitVec 30), s.busy = false → s.phase = .seeking → s.result = .none → s.cursor ≠ 0 →
    exec (.nextFrame ign) s = .refused .cursorNotAtStart ∧ exec (.nextHeader ign) s = .refused .cursorNotAtStart

/-! ### A step runs the decoded instruction -/

/-- A write to CMD whose word decodes to `i` makes the step `exec i`, the write taken off the inputs (R90, R150). -/
def Obligations.StepRunsTheWrittenCommand : Prop :=
  ∀ (s : State) (v : Word) (rest : List Event) (i : Instr), s.env = .hostWrite 0 4 v :: rest →
    decode .command v = i → step s = exec i { s with env := rest }

/-- The byte that completes a window makes the step `exec` of the header in it: after a shift, and after a fill once the
container check is behind or finds no container (R156, R157, R158, R172). -/
def Obligations.StepRunsTheCompletedWindow : Prop :=
  ∀ (s : State) (b : Byte) (rest : List Event) (i : Instr), s.stale = [] → s.env = .answer .normal :: rest →
    s.src[s.cursor]? = some b →
    decode .header (headerWord s.w.b0 s.w.b1 s.w.b2 b) = i →
    (s.ctx = .shift →
      step s = exec i { s with env := rest, cursor := s.cursor + 1, w := { s.w with b3 := b } }) ∧
    (s.ctx = .fill → s.wfill = 3 →
      (s.riffChecked = true ∨ headerWord s.w.b0 s.w.b1 s.w.b2 b ≠ 0x52494646#32) →
      step s = exec i { s with env := rest, cursor := s.cursor + 1, w := { s.w with b3 := b }, wfill := 4,
                               riffChecked := true })

/-! ### Synchronizer steps -/

/-- R155: FILL4 puts each byte but the last in its place and counts it. -/
def Obligations.FillTakesOneByte : Prop :=
  ∀ (s : State) (b : Byte) (rest : List Event), s.ctx = .fill → s.wfill < 3 → s.stale = [] →
    s.env = .answer .normal :: rest → s.src[s.cursor]? = some b →
    ∃ q, step s = .next { s with env := rest, cursor := s.cursor + 1, wfill := s.wfill + 1, w := q } ∧
      (s.wfill = 0 → q = { s.w with b0 := b }) ∧ (s.wfill = 1 → q = { s.w with b1 := b }) ∧
      (s.wfill = 2 → q = { s.w with b2 := b })

/-- R156, R190: the first complete window of the stream is compared with "RIFF" once; on a match the unwrapper waits for its
rewind, and nothing is decoded. -/
def Obligations.RiffSignatureStartsTheUnwrapper : Prop :=
  ∀ (s : State) (b : Byte) (rest : List Event), s.ctx = .fill → s.wfill = 3 → s.riffChecked = false →
    s.stale = [] → s.env = .answer .normal :: rest → s.src[s.cursor]? = some b →
    headerWord s.w.b0 s.w.b1 s.w.b2 b = 0x52494646#32 →
    step s = .next { s with env := rest, cursor := s.cursor + 1, wfill := 4, w := { s.w with b3 := b },
                            riffChecked := true, ctx := .rewind }

/-- R159: END in FILL4 or SHIFT1 ends the command clean, whatever the window holds. -/
def Obligations.EndWhileSeekingIsClean : Prop :=
  ∀ (s : State) (rest : List Event), (s.ctx = .fill ∨ s.ctx = .shift) → s.stale = [] →
    s.env = .answer .normal :: rest → s.src.length ≤ s.cursor →
    step s = .next { s with env := rest, phase := .exhausted, exkind := some .clean, result := .eosClean,
                            busy := false, done := true, ctx := .idle }

/-- R163: END in the payload ends the command truncated. -/
def Obligations.EndInPayloadIsTruncated : Prop :=
  ∀ (s : State) (rest : List Event), s.ctx = .payload → s.stale = [] →
    s.env = .answer .normal :: rest → s.src.length ≤ s.cursor →
    step s = .next { s with env := rest, phase := .exhausted, exkind := some .truncated, result := .eosTruncated,
                            busy := false, done := true, ctx := .idle }

/-- R167, R198: ERROR to any transaction of a command ends it with SOURCE_ERROR; the cursor and every byte read stay. -/
def Obligations.AnyErrorEndsInSourceError : Prop :=
  ∀ (s : State) (rest : List Event), s.ctx ≠ .idle → s.stale = [] → s.env = .answer .error :: rest →
    step s = .next { s with env := rest, phase := .exhausted, exkind := some .sourceError, result := .sourceError,
                            busy := false, done := true, ctx := .idle }

/-- R197: END to any read of the unwrapper ends the command with FORMAT_ERROR. -/
def Obligations.EndInUnwrapperIsFormatError : Prop :=
  ∀ (s : State) (k : Nat) (rest : List Event),
    (s.ctx = .riffHeader k ∨ s.ctx = .chunkId k ∨ s.ctx = .chunkSize k) → s.stale = [] →
    s.env = .answer .normal :: rest → s.src.length ≤ s.cursor →
    step s = .next { s with env := rest, phase := .exhausted, exkind := some .formatError, result := .formatError,
                            busy := false, done := true, ctx := .idle }

/-- R162: a payload byte that is not the last is counted and, in FULL mode, stored at `FB[pcnt]`; every other byte of FB and
everything else is unchanged. -/
def Obligations.PayloadByteIsStored : Prop :=
  ∀ (s : State) (b : Byte) (rest : List Event), s.ctx = .payload → s.pcnt < maxFrameLen →
    s.pcnt + 1 < s.hdr.frameLengthBytes.toNat → s.stale = [] →
    s.env = .answer .normal :: rest → s.src[s.cursor]? = some b →
    ∃ m, step s = .next { s with env := rest, cursor := s.cursor + 1, pcnt := s.pcnt + 1, fb := m } ∧
      (s.mode = .full → Memory.read m s.pcnt = some b ∧ ∀ a, a ≠ s.pcnt → Memory.read m a = Memory.read s.fb a) ∧
      (s.mode = .headerOnly → m = s.fb)

/-- R164, R165: the last payload byte delivers the frame: `phase <- SEEKING`, `result <- FRAME`, `busy <- 0`, `done <- 1`. -/
def Obligations.LastPayloadByteDeliversTheFrame : Prop :=
  ∀ (s : State) (b : Byte) (rest : List Event), s.ctx = .payload → s.pcnt < maxFrameLen →
    s.pcnt + 1 = s.hdr.frameLengthBytes.toNat → s.stale = [] →
    s.env = .answer .normal :: rest → s.src[s.cursor]? = some b →
    ∃ m, step s = .next { s with env := rest, cursor := s.cursor + 1, pcnt := s.pcnt + 1, fb := m,
                                 phase := .seeking, result := .frame, busy := false, done := true, ctx := .idle } ∧
      (s.mode = .full → Memory.read m s.pcnt = some b ∧ ∀ a, a ≠ s.pcnt → Memory.read m a = Memory.read s.fb a) ∧
      (s.mode = .headerOnly → m = s.fb)

/-! ### Container unwrapper -/

/-- R193: the rewind and the 12 header bytes, read from position 0 and discarded; `upos` is then 12. -/
def Obligations.RiffHeaderIsReadAndDiscarded : Prop :=
  ∀ (s : State) (rest : List Event), s.ctx = .rewind → s.stale = [] → s.env = answers 13 ++ rest →
    12 ≤ s.src.length →
    run 13 s = .next { s with env := rest, cursor := 12, upos := 12, ctx := .chunkId 0 }

/-- R194, R195, R196: one chunk of the walk, its 8-byte header read at `upos`. At "data" the cursor is placed at the content
and FILL4 starts; any other chunk is skipped by its little-endian size, and by one byte more when it is odd and
`RIFF_PAD_ODD` holds. A seek target that does not fit `upos` is refused (U15, log 16). -/
def Obligations.ChunkIsSkippedOrFound : Prop :=
  ∀ (s : State) (rest : List Event) (i0 i1 i2 i3 z0 z1 z2 z3 : Byte) (size next : Nat),
    s.ctx = .chunkId 0 → s.stale = [] → s.env = answers 9 ++ rest → s.cursor = s.upos →
    s.src[s.upos]? = some i0 → s.src[s.upos + 1]? = some i1 → s.src[s.upos + 2]? = some i2 →
    s.src[s.upos + 3]? = some i3 → s.src[s.upos + 4]? = some z0 → s.src[s.upos + 5]? = some z1 →
    s.src[s.upos + 6]? = some z2 → s.src[s.upos + 7]? = some z3 →
    size = z0.toNat + z1.toNat * 2 ^ 8 + z2.toNat * 2 ^ 16 + z3.toNat * 2 ^ 24 →
    next = s.upos + 8 + size + (if s.cfg.riffPadOdd = true ∧ size % 2 = 1 then 1 else 0) →
    ([i0, i1, i2, i3] = [0x64#8, 0x61#8, 0x74#8, 0x61#8] →
      (s.upos + 8 < 2 ^ 64 → run 9 s = .next { s with
        env := rest, upos := s.upos + 8, cursor := s.upos + 8, wfill := 0, ctx := .fill,
        cid := { b0 := i0, b1 := i1, b2 := i2, b3 := i3 }, csz := { b0 := z0, b1 := z1, b2 := z2, b3 := z3 } }) ∧
      (2 ^ 64 ≤ s.upos + 8 → run 9 s = .refused .seekTargetTooWide)) ∧
    ([i0, i1, i2, i3] ≠ [0x64#8, 0x61#8, 0x74#8, 0x61#8] →
      (next < 2 ^ 64 → run 9 s = .next { s with
        env := rest, upos := next, cursor := next, ctx := .chunkId 0,
        cid := { b0 := i0, b1 := i1, b2 := i2, b3 := i3 }, csz := { b0 := z0, b1 := z1, b2 := z2, b3 := z3 } }) ∧
      (2 ^ 64 ≤ next → run 9 s = .refused .seekTargetTooWide))

/-- R190, R192 to R196, R200: the first command after reset on a RIFF envelope around the content `D` walks its chunks and
fills the window from the first byte of `D`: what follows runs as on `D` alone, past the container check
(`EnvelopeIsInvisibleAfterTheUnwrap`). -/
def Obligations.UnwrapReachesTheDataContent : Prop :=
  ∀ (c : Config) (m : Mode) (ign : BitVec 30) (header : List Byte) (chunks : List Chunk) (size : Quad)
    (P D : List Byte),
    P = envelope header chunks size → header.length = 8 →
    (∀ k ∈ chunks, k.id ≠ dataId ∧ k.body.length = skipTarget c 0 (littleEndian k.size)) →
    (P ++ D).length < 2 ^ 63 →
    ∃ s, run (1 + (26 + 9 * chunks.length)) ((State.booted c (P ++ D)).commanded m ign (26 + 9 * chunks.length)) =
        .next s ∧
      s.ctx = .fill ∧ s.wfill = 0 ∧ s.cursor = P.length ∧ s.riffChecked = true ∧ s.busy = true ∧ s.done = false ∧
      s.mode = m ∧ s.phase = .seeking ∧ s.result = .none ∧ shiftedBy P s { s with src := D, cursor := 0 }

/-- R191, R23: `riff_checked` is never cleared except by reset. -/
def Obligations.RiffCheckedIsClearedOnlyByReset : Prop :=
  ∀ (s t : State) (e : Event) (rest : List Event), s.env = e :: rest → e ≠ .rst → step s = .next t →
    s.riffChecked = true → t.riffChecked = true

/-! ### Whole-machine rules -/

/-- R215: EXHAUSTED persists until reset, with its kind. -/
def Obligations.OnlyResetLeavesExhausted : Prop :=
  ∀ (s t : State) (e : Event) (rest : List Event), s.Inv → s.phase = .exhausted → s.env = e :: rest → e ≠ .rst →
    step s = .next t → t.phase = .exhausted ∧ t.exkind = s.exkind ∧ t.result = s.result ∧ t.busy = false ∧
      t.done = true

/-- R38: only command acceptance, command completion and reset write `busy` and `done`. -/
def Obligations.OnlyAcceptanceAndCompletionWriteBusyAndDone : Prop :=
  ∀ (s t : State) (e : Event) (rest : List Event), s.Inv → s.env = e :: rest → step s = .next t →
    (t.busy ≠ s.busy ∨ t.done ≠ s.done) →
    e = .rst ∨
    (s.busy = false ∧ ∃ v, e = .hostWrite 0 4 v ∧ (v.extractLsb' 0 2 = 0b01#2 ∨ v.extractLsb' 0 2 = 0b10#2)) ∨
    (s.busy = true ∧ t.busy = false ∧ t.done = true ∧ ∃ d, e = .answer d)

/-- R37, R61, R71: a response moves the cursor by nothing, by one byte of the source, or to the target of the seek it answers;
no other input but a new source moves it; the source contents change only with a new source. -/
def Obligations.CursorMovesOnlyAsTheSourceSays : Prop :=
  ∀ (s t : State) (e : Event) (rest : List Event), s.env = e :: rest → (∀ bs, e ≠ .bind bs) → step s = .next t →
    t.src = s.src ∧
    (t.cursor = s.cursor ∨
      (∃ d, e = .answer d) ∧
        ((t.cursor = s.cursor + 1 ∧ s.cursor < s.src.length ∧ (s.stale ++ (pendingTxn s).toList).head? = some .read) ∨
          (s.stale ++ (pendingTxn s).toList).head? = some (.seek t.cursor)))

/-- R239: a command in progress waits for its response: no input but an answer of the source or a reset moves it, and with no
input at all nothing changes. -/
def Obligations.CommandWaitsForItsResponse : Prop :=
  (∀ s : State, s.env = [] → step s = .next s) ∧
  (∀ (s t : State) (e : Event) (rest : List Event), s.busy = true → s.env = e :: rest → e ≠ .rst →
    (∀ d, e ≠ .answer d) → step s = .next t → t = { s with env := rest, rdata := t.rdata })

/-- R221, R74: while idle the block changes nothing of itself, and a delivered frame stays readable, until a command is
accepted, a reset comes or a source is bound. Only the source's late answers and the host's reads leave a trace elsewhere. -/
def Obligations.IdleBlockKeepsItsState : Prop :=
  ∀ (s t : State) (e : Event) (rest : List Event), s.busy = false → s.ctx = .idle → s.env = e :: rest →
    e ≠ .rst → (∀ bs, e ≠ .bind bs) →
    (∀ v, e = .hostWrite 0 4 v → v.extractLsb' 0 2 = 0b00#2 ∨ v.extractLsb' 0 2 = 0b11#2) →
    step s = .next t → t = { s with env := rest, rdata := t.rdata, stale := t.stale, cursor := t.cursor }

/-- R153: NEXT_HEADER is NEXT_FRAME without the FB writes: both are accepted into the same state but for the mode, and from
two states that differ in mode and FB only, one response leads to two that differ in mode and FB only, HEADER_ONLY leaving
FB as it was. -/
def Obligations.HeaderOnlyModeDiffersOnlyInFb : Prop :=
  (∀ (s : State) (ign : BitVec 30), s.Inv → s.result ≠ .none ∨ s.cursor = 0 →
    ∃ t u, exec (.nextFrame ign) s = .next t ∧ exec (.nextHeader ign) s = .next u ∧ sameButFb t u ∧ u.fb = s.fb) ∧
  (∀ (s t s' : State) (d : Draw) (rest : List Event), s.Inv → t.Inv → sameButFb s t → s.env = .answer d :: rest →
    step s = .next s' →
    ∃ t', step t = .next t' ∧ sameButFb s' t' ∧ (t.mode = .headerOnly → t'.fb = t.fb))

/-! ### The invariant -/

/-- The invariant holds after reset, for either choice of the parameters and any source the positions can address. -/
def Obligations.InvariantHoldsAfterReset : Prop :=
  State.reset.Inv ∧ ∀ (c : Config) (bs : List Byte), bs.length < 2 ^ 63 → (State.booted c bs).Inv

/-- Every step keeps the invariant. -/
def Obligations.EveryStepKeepsTheInvariant : Prop :=
  ∀ s t : State, s.Inv → step s = .next t → t.Inv

/-- In a state that meets the invariant no answer of the source stops the machine: every response has a next state
(R172, R199). -/
def Obligations.EveryResponseHasANextState : Prop :=
  ∀ (s : State) (d : Draw) (rest : List Event), s.Inv → s.env = .answer d :: rest → ∃ t, step s = .next t

/-! ### Whole commands -/

/-- R171: positioned at a valid header with the whole frame in the source, NEXT_FRAME delivers it. -/
def Obligations.NextFrameRoundTrip : Prop :=
  ∀ (s : State) (ign : BitVec 30) (w : Word) (h : Hdr), s.ready → s.stale = [] →
    headerAt s.src s.cursor = some w → decodeUnit s.cfg w = some h →
    s.cursor + h.frameLengthBytes.toNat ≤ s.src.length →
    ∃ t, run (1 + h.frameLengthBytes.toNat)
        (s.commanded .full ign h.frameLengthBytes.toNat) = .next t ∧
      t.result = .frame ∧ t.phase = .seeking ∧ t.busy = false ∧ t.done = true ∧ t.hdr = h ∧
      t.cursor = s.cursor + h.frameLengthBytes.toNat ∧
      (∀ i, i < h.frameLengthBytes.toNat → readFb t i = s.src[s.cursor + i]?) ∧
      (∀ k, k < 4 → readFb t k = some (headerByte w k))

/-- R170: the first command after reset finds the same frame behind `N` bytes at which no valid window starts as without
them, after `N` shifts. -/
def Obligations.ResynchronizationFindsTheSameFrame : Prop :=
  ∀ (c : Config) (m : Mode) (ign : BitVec 30) (P F : List Byte) (w : Word) (h : Hdr),
    headerAt F 0 = some w → decodeUnit c w = some h → h.frameLengthBytes.toNat ≤ F.length →
    (∀ i v, i < P.length → headerAt (P ++ F) i = some v → decodeUnit c v = none) →
    headerAt (P ++ F) 0 ≠ some 0x52494646#32 →
    ∃ t u,
      run (1 + h.frameLengthBytes.toNat)
        ((State.booted c F).commanded m ign h.frameLengthBytes.toNat) = .next t ∧
      run (1 + (P.length + h.frameLengthBytes.toNat))
        ((State.booted c (P ++ F)).commanded m ign (P.length + h.frameLengthBytes.toNat)) = .next u ∧
      t.result = .frame ∧ u.result = .frame ∧ t.hdr = h ∧ u.hdr = t.hdr ∧
      t.cursor = h.frameLengthBytes.toNat ∧ u.cursor = P.length + t.cursor ∧
      (m = .full → ∀ i, i < h.frameLengthBytes.toNat → readFb u i = readFb t i ∧ readFb t i = F[i]?)

/-- R173: if the source answers every transaction, the command completes: some number of answers, whatever they are, ends it,
the late answers to transactions a reset abandoned among them (log 8). -/
def Obligations.AnsweredCommandCompletes : Prop :=
  ∀ s : State, s.Inv → s.busy = true →
    ∃ n, ∀ ds : List Draw, ds.length = n →
      ∃ t, run n { s with env := ds.map .answer } = .next t ∧ t.busy = false ∧ t.done = true ∧
        t.result ≠ .none

/-- R200, R201: past the container check, scanning runs on the data content as if the bytes before it did not exist: an input
other than reset or a new source takes two such states to two such states, with the same result registers. -/
def Obligations.EnvelopeIsInvisibleAfterTheUnwrap : Prop :=
  ∀ (P : List Byte) (s t : State) (e : Event), shiftedBy P s t → e ≠ .rst → (∀ bs, e ≠ .bind bs) →
    outcomesRelated (shiftedBy P) (takeEvent e s) (takeEvent e t)

/-! ### Host port -/

/-- R42: the STATUS word, read at any time; a write to it changes nothing. -/
def Obligations.StatusRegisterLayout : Prop :=
  ∀ (s : State) (rest : List Event),
    (s.env = .hostRead 0x04 4 :: rest →
      ∃ v : Word, step s = .next { s with env := rest, rdata := v } ∧
        (v.extractLsb' 0 1 = 1#1 ↔ s.busy = true) ∧ (v.extractLsb' 1 1 = 1#1 ↔ s.done = true) ∧
        v.extractLsb' 2 3 = resultCode s.result ∧ v.extractLsb' 5 2 = phaseCode s.phase ∧
        (v.extractLsb' 7 1 = 1#1 ↔ s.riffChecked = true) ∧ (v.extractLsb' 8 1 = 1#1 ↔ s.mode = .headerOnly) ∧
        v.extractLsb' 9 23 = 0#23) ∧
    (∀ v, s.env = .hostWrite 0x04 4 v :: rest → step s = .next { s with env := rest })

/-- R43 to R48, R50: the result registers while `done = 1`, `busy = 0` and `result = FRAME`, and the host fault at any other
time. -/
def Obligations.ResultRegistersAreReadableExactlyAfterAFrame : Prop :=
  ∀ (s : State) (offset : Nat) (rest : List Event), s.env = .hostRead offset 4 :: rest →
    (s.done = true → s.busy = false → s.result = .frame →
      (offset = 0x08 → step s = .next { s with env := rest, rdata := s.hdr.word }) ∧
      (offset = 0x0C → ∃ v : Word, step s = .next { s with env := rest, rdata := v } ∧
        v.extractLsb' 0 2 = s.hdr.vcode ∧ v.extractLsb' 2 2 = s.hdr.lcode ∧ v.extractLsb' 4 2 = s.hdr.cmcode ∧
        (v.extractLsb' 6 1 = 1#1 ↔ s.hdr.crcPresent = true) ∧ (v.extractLsb' 7 1 = 1#1 ↔ s.hdr.padding = true) ∧
        v.extractLsb' 8 24 = 0#24) ∧
      (offset = 0x10 → ∃ v : Word, step s = .next { s with env := rest, rdata := v } ∧ v.toNat = s.hdr.bitRate.toNat) ∧
      (offset = 0x14 → ∃ v : Word, step s = .next { s with env := rest, rdata := v } ∧
        v.toNat = s.hdr.sampleRate.toNat) ∧
      (offset = 0x18 → ∃ v : Word, step s = .next { s with env := rest, rdata := v } ∧
        v.toNat = s.hdr.frameLengthBytes.toNat) ∧
      (offset = 0x1C → ∃ v : Word, step s = .next { s with env := rest, rdata := v } ∧
        v.toNat = s.hdr.sampleCount.toNat)) ∧
    (¬ (s.done = true ∧ s.busy = false ∧ s.result = .frame) → offset ∈ [0x08, 0x0C, 0x10, 0x14, 0x18, 0x1C] →
      step s = .fault .hostUndefinedRegister)

/-- R49, R74: an FB byte is readable exactly as a byte of the frame a FULL command delivered. -/
def Obligations.FrameBufferIsReadableExactlyAfterAFullFrame : Prop :=
  ∀ (s : State) (i : Nat) (rest : List Event), s.Inv → i < 16384 → s.env = .hostRead (0x10000 + i) 1 :: rest →
    (s.done = true → s.busy = false → s.result = .frame → s.mode = .full → i < s.hdr.frameLengthBytes.toNat →
      ∃ b, Memory.read s.fb i = some b ∧
        ∃ v : Word, step s = .next { s with env := rest, rdata := v } ∧ v.toNat = b.toNat) ∧
    (¬ (s.done = true ∧ s.busy = false ∧ s.result = .frame ∧ s.mode = .full ∧ i < s.hdr.frameLengthBytes.toNat) →
      step s = .fault .hostUndefinedFb)

/-- R40, R41: CMD and every unmapped offset read 0; a write to anything but CMD is ignored. -/
def Obligations.UnmappedReadsZeroAndOtherWritesAreIgnored : Prop :=
  ∀ (s : State) (offset : Nat) (rest : List Event), offset % 4 = 0 → (offset < 0x10000 ∨ 0x14000 ≤ offset) →
    (offset = 0 ∨ 0x20 ≤ offset → s.env = .hostRead offset 4 :: rest →
      step s = .next { s with env := rest, rdata := 0 }) ∧
    (∀ v, offset ≠ 0 → s.env = .hostWrite offset 4 v :: rest → step s = .next { s with env := rest }) ∧
    (∀ v i, i < 16384 → s.env = .hostWrite (0x10000 + i) 1 v :: rest → step s = .next { s with env := rest })

/-- R65, U10: an access outside the FB window that is misaligned or not 32 bits wide, and one inside it that is not 8 bits
wide, is a host fault (log 11). -/
def Obligations.BadHostAccessFaults : Prop :=
  ∀ (s : State) (offset width : Nat) (v : Word) (rest : List Event),
    ((offset < 0x10000 ∨ 0x14000 ≤ offset) ∧ (width ≠ 4 ∨ offset % 4 ≠ 0)) ∨
      (0x10000 ≤ offset ∧ offset < 0x14000 ∧ width ≠ 1) →
    (s.env = .hostRead offset width :: rest → step s = .fault .hostBadAccess) ∧
    (s.env = .hostWrite offset width v :: rest → step s = .fault .hostBadAccess)

/-- R40, R66: no read has a side effect; only the value returned to the host differs. -/
def Obligations.HostReadsHaveNoSideEffect : Prop :=
  ∀ (s t : State) (offset width : Nat) (rest : List Event), s.env = .hostRead offset width :: rest →
    step s = .next t → t = { s with env := rest, rdata := t.rdata }

/-! ### Reset and the source's binding -/

/-- R230, R53: reset in any state. The pieces R53 gives a value take it, FB and `exkind` hold none, and neither the source nor
its cursor moves. -/
def Obligations.ResetRestoresTheBlock : Prop :=
  ∀ (s : State) (rest : List Event), s.env = .rst :: rest →
    ∃ t, step s = .next t ∧ t.phase = .seeking ∧ t.riffChecked = false ∧ t.busy = false ∧ t.done = false ∧
      t.result = .none ∧ t.mode = .full ∧ t.wfill = 0 ∧ t.pcnt = 0 ∧ t.upos = 0 ∧ t.exkind = none ∧
      (∀ a, Memory.read t.fb a = none) ∧ t.ctx = .idle ∧
      t.src = s.src ∧ t.cursor = s.cursor ∧ t.cfg = s.cfg ∧ t.env = rest ∧
      t.stale = s.stale ++ (pendingTxn s).toList

/-- R230, U22: the response to a transaction a reset abandoned is discarded: only the source's side of it happens (log 8). -/
def Obligations.LateResponseIsDiscarded : Prop :=
  ∀ (s : State) (d : Draw) (x : Txn) (xs : List Txn) (rest : List Event), s.stale = x :: xs →
    s.env = .answer d :: rest → ∃ c, step s = .next { s with env := rest, stale := xs, cursor := c }

/-- The platform's binding of a source (R232, R233) as the model has it (log 9): before the first command after reset it
puts the new source at position 0, and in use it is refused (U17). -/
def Obligations.SourceIsBoundOnlyBeforeTheFirstCommand : Prop :=
  ∀ (s : State) (bs : List Byte) (rest : List Event), s.env = .bind bs :: rest →
    (s.busy = false → s.result = .none → bs.length < 2 ^ 63 →
      step s = .next { s with env := rest, src := bs, cursor := 0, stale := [] }) ∧
    (s.busy = true ∨ s.result ≠ .none → step s = .refused .sourceRebound)
end

