-- ==== Sys2Proof/Laws/Decode.lean ====
section
/-! SUPPORT. The fields of an encoded word, a word as the concatenation of its fields, and the code maps as inverses. -/

namespace Sys2Proof

/-! ### Code maps (R83, R84) -/

@[simp] theorem versionOf_versionCode (v : Version) : versionOf (versionCode v) = some v := by cases v <;> rfl

@[simp] theorem layerOf_layerCode (l : Layer) : layerOf (layerCode l) = some l := by cases l <;> rfl

theorem versionOf_eq_some {c : BitVec 2} {v : Version} (h : versionOf c = some v) : c = versionCode v := by
  revert h; revert c; cases v <;> decide

theorem layerOf_eq_some {c : BitVec 2} {l : Layer} (h : layerOf c = some l) : c = layerCode l := by
  revert h; revert c; cases l <;> decide

theorem versionOf_eq_none {c : BitVec 2} : versionOf c = none ↔ c = 0b01#2 := by revert c; decide

theorem layerOf_eq_none {c : BitVec 2} : layerOf c = none ↔ c = 0b00#2 := by revert c; decide

/-- No version has the reserved code. -/
theorem versionCode_ne_reserved (v : Version) : versionCode v ≠ 0b01#2 := by cases v <;> decide

/-- No layer has the reserved code. -/
theorem layerCode_ne_reserved (l : Layer) : layerCode l ≠ 0b00#2 := by cases l <;> decide

/-! ### Parts of a concatenation -/

/-- The low part of a concatenation. -/
theorem extract_low {n m : Nat} (a : BitVec n) (b : BitVec m) : (a ++ b).extractLsb' 0 m = b := by
  apply BitVec.eq_of_getLsbD_eq
  intro i hi
  simp [BitVec.getLsbD_append, hi]

/-- The high part of a concatenation. -/
theorem extract_high {n m : Nat} (a : BitVec n) (b : BitVec m) : (a ++ b).extractLsb' m n = a := by
  apply BitVec.eq_of_getLsbD_eq
  intro i hi
  simp [BitVec.getLsbD_append, hi]

/-- The code of a command word (R90). -/
@[simp] theorem command_code (g : BitVec 30) (c : BitVec 2) : (g ++ c : BitVec 32).extractLsb' 0 2 = c :=
  extract_low g c

/-- The ignored bits of a command word (R90). -/
@[simp] theorem command_ign (g : BitVec 30) (c : BitVec 2) : (g ++ c : BitVec 32).extractLsb' 2 30 = g :=
  extract_high g c

/-- The fields of a reserved-version word. -/
theorem reservedVersion_fields (r : BitVec 19) :
    syncBits (0x7FF#11 ++ 0b01#2 ++ r) = 0x7FF#11 ∧ verBits (0x7FF#11 ++ 0b01#2 ++ r) = 0b01#2 := by
  constructor <;>
  · apply BitVec.eq_of_getLsbD_eq
    intro i hi
    simp only [syncBits, verBits, BitVec.getLsbD_extractLsb', BitVec.getLsbD_append]
    interval_cases i <;> simp

/-- The fields of a reserved-layer word. -/
theorem reservedLayer_fields (c : BitVec 2) (r : BitVec 17) :
    syncBits (0x7FF#11 ++ c ++ 0b00#2 ++ r) = 0x7FF#11 ∧ verBits (0x7FF#11 ++ c ++ 0b00#2 ++ r) = c ∧
    layBits (0x7FF#11 ++ c ++ 0b00#2 ++ r) = 0b00#2 := by
  refine ⟨?_, ?_, ?_⟩ <;>
  · apply BitVec.eq_of_getLsbD_eq
    intro i hi
    simp only [syncBits, verBits, layBits, BitVec.getLsbD_extractLsb', BitVec.getLsbD_append]
    interval_cases i <;> simp

/-! ### Fields of an encoded header (R80) -/

variable (v : Version) (l : Layer) (f : HdrFields)

@[simp] theorem syncBits_encodeClass : syncBits (encodeClass v l f) = 0x7FF#11 := by
  apply BitVec.eq_of_getLsbD_eq
  intro i hi
  simp only [syncBits, encodeClass, BitVec.getLsbD_extractLsb', BitVec.getLsbD_append]
  interval_cases i <;> simp

@[simp] theorem verBits_encodeClass : verBits (encodeClass v l f) = versionCode v := by
  apply BitVec.eq_of_getLsbD_eq
  intro i hi
  simp only [verBits, encodeClass, BitVec.getLsbD_extractLsb', BitVec.getLsbD_append]
  interval_cases i <;> simp

@[simp] theorem layBits_encodeClass : layBits (encodeClass v l f) = layerCode l := by
  apply BitVec.eq_of_getLsbD_eq
  intro i hi
  simp only [layBits, encodeClass, BitVec.getLsbD_extractLsb', BitVec.getLsbD_append]
  interval_cases i <;> simp

@[simp] theorem fieldsOf_encodeClass : fieldsOf (encodeClass v l f) = f := by
  obtain ⟨prot, bri, sri, pad, ignA, chm, ignB⟩ := f
  simp only [fieldsOf, encodeClass, HdrFields.mk.injEq]
  refine ⟨?_, ?_, ?_, ?_, ?_, ?_, ?_⟩ <;>
  · apply BitVec.eq_of_getLsbD_eq
    intro i hi
    simp only [BitVec.getLsbD_extractLsb', BitVec.getLsbD_append]
    interval_cases i <;> simp

/-! ### A word from its fields -/

/-- A header word with sync ones is the concatenation of its fields (R80). -/
theorem word_eq_fields (h : Word) :
    h = syncBits h ++ verBits h ++ layBits h ++ (fieldsOf h).prot ++ (fieldsOf h).bri ++ (fieldsOf h).sri ++
      (fieldsOf h).pad ++ (fieldsOf h).ignA ++ (fieldsOf h).chm ++ (fieldsOf h).ignB := by
  apply BitVec.eq_of_getLsbD_eq
  intro i hi
  simp only [syncBits, verBits, layBits, fieldsOf, BitVec.getLsbD_extractLsb', BitVec.getLsbD_append]
  interval_cases i <;> simp

/-- Any word is its upper `k` and lower bits. -/
theorem word_eq_split (h : Word) (n m : Nat) (hnm : n + m = 32) :
    h = (h.extractLsb' m n ++ h.extractLsb' 0 m).cast hnm := by
  apply BitVec.eq_of_getLsbD_eq
  intro i hi
  simp only [BitVec.getLsbD_cast, BitVec.getLsbD_append, BitVec.getLsbD_extractLsb']
  split
  · simp_all
  · have : i - m < n := by omega
    simp [this, show m + (i - m) = i by omega]

/-- The word of the window bytes gives the bytes back (R9). -/
@[simp] theorem headerByte_headerWord (b0 b1 b2 b3 : Byte) :
    headerByte (headerWord b0 b1 b2 b3) 0 = b0 ∧ headerByte (headerWord b0 b1 b2 b3) 1 = b1 ∧
    headerByte (headerWord b0 b1 b2 b3) 2 = b2 ∧ headerByte (headerWord b0 b1 b2 b3) 3 = b3 := by
  refine ⟨?_, ?_, ?_, ?_⟩ <;>
  · apply BitVec.eq_of_getLsbD_eq
    intro i hi
    simp only [headerByte, headerWord, BitVec.getLsbD_extractLsb', BitVec.getLsbD_append]
    interval_cases i <;> simp

/-- The four bytes of a word give the word back (R9). -/
theorem headerWord_headerByte (h : Word) :
    headerWord (headerByte h 0) (headerByte h 1) (headerByte h 2) (headerByte h 3) = h := by
  apply BitVec.eq_of_getLsbD_eq
  intro i hi
  simp only [headerByte, headerWord, BitVec.getLsbD_extractLsb', BitVec.getLsbD_append]
  interval_cases i <;> simp

/-! ### What the decoder can answer -/

/-- Everything `decodeHeader` can answer, with the bits that decide it (R88). -/
theorem decodeHeader_cases (h : Word) :
    (syncBits h ≠ 0x7FF#11 ∧ decodeHeader h = .rejectNoSync (syncBits h) (h.extractLsb' 0 21)) ∨
    (syncBits h = 0x7FF#11 ∧ verBits h = 0b01#2 ∧ decodeHeader h = .rejectReservedVersion (h.extractLsb' 0 19)) ∨
    (syncBits h = 0x7FF#11 ∧ verBits h ≠ 0b01#2 ∧ layBits h = 0b00#2 ∧
      decodeHeader h = .rejectReservedLayer (verBits h) (h.extractLsb' 0 17)) ∨
    (∃ v l, syncBits h = 0x7FF#11 ∧ versionOf (verBits h) = some v ∧ layerOf (layBits h) = some l ∧
      decodeHeader h = classInstr v l (fieldsOf h)) := by
  unfold decodeHeader
  split
  · rename_i hs
    cases hv : versionOf (verBits h) with
    | none => exact .inr (.inl ⟨hs, versionOf_eq_none.1 hv, rfl⟩)
    | some v =>
      have hv' : verBits h ≠ 0b01#2 := fun e => by simp [versionOf_eq_none.2 e] at hv
      cases hl : layerOf (layBits h) with
      | none => exact .inr (.inr (.inl ⟨hs, hv', layerOf_eq_none.1 hl, by simp⟩))
      | some l => exact .inr (.inr (.inr ⟨v, l, hs, rfl, rfl, by simp⟩))
  · exact .inl ⟨‹_›, rfl⟩

/-- A word of a class is that class's encoding of its fields. -/
theorem encodeClass_fieldsOf {h : Word} (hs : syncBits h = 0x7FF#11) (hv : versionOf (verBits h) = some v)
    (hl : layerOf (layBits h) = some l) : encodeClass v l (fieldsOf h) = h := by
  have := word_eq_fields h
  rw [hs, versionOf_eq_some hv, layerOf_eq_some hl] at this
  exact this.symm

/-- Header classes are told apart by version, layer and fields. -/
theorem classInstr_inj {v v' : Version} {l l' : Layer} {f f' : HdrFields}
    (h : classInstr v l f = classInstr v' l' f') : v = v' ∧ l = l' ∧ f = f' := by
  cases v <;> cases l <;> cases v' <;> cases l' <;> simp_all [classInstr]

/-- A header class is no reject term. -/
theorem classInstr_ne_reject :
    (∀ a b, classInstr v l f ≠ .rejectNoSync a b) ∧ (∀ a, classInstr v l f ≠ .rejectReservedVersion a) ∧
    (∀ a b, classInstr v l f ≠ .rejectReservedLayer a b) := by
  cases v <;> cases l <;> simp [classInstr]

/-! ### Masks (R88) -/

/-- A mask of the upper bits compares the upper bits. -/
theorem and_highMask_eq_iff (h m c : Word) (k n : Nat) (hn : n + k = 32)
    (hm : ∀ i, i < 32 → m.getLsbD i = decide (k ≤ i)) (hc : ∀ i, i < k → c.getLsbD i = false) :
    h &&& m = c ↔ h.extractLsb' k n = c.extractLsb' k n := by
  constructor
  · intro e
    apply BitVec.eq_of_getLsbD_eq
    intro i hi
    have := congrArg (fun x => x.getLsbD (k + i)) e
    simp [hm (k + i) (by omega)] at this
    simp [hi, this]
  · intro e
    apply BitVec.eq_of_getLsbD_eq
    intro i hi
    have := congrArg (fun x => x.getLsbD (i - k)) e
    by_cases h1 : k ≤ i
    · simp [show i - k < n by omega, show k + (i - k) = i by omega] at this
      simp [hm i hi, h1, this]
    · simp [hm i hi, h1, hc i (by omega)]

/-- The class bits `H[31:17]` are the sync, version and layer codes (R80). -/
theorem classBits_eq (h : Word) : h.extractLsb' 17 15 = syncBits h ++ verBits h ++ layBits h := by
  apply BitVec.eq_of_getLsbD_eq
  intro i hi
  simp only [syncBits, verBits, layBits, BitVec.getLsbD_extractLsb', BitVec.getLsbD_append]
  interval_cases i <;> simp

end Sys2Proof
end

