-- ==== Sys2Proof/Laws/Operands.lean ====
section
/-! SUPPORT. What the field decoders and the frame-length calculator can answer, and DECODE of a class inverted. -/

namespace Sys2Proof.Machine

/-! ### Tables (R32 to R34) -/

theorem romBr_mem {v : Version} {l : Layer} {i k : Nat} (h : romBr v l i = some k) : k ∈ bitrateRow v l :=
  List.mem_of_getElem? h

theorem romSr_mem {v : Version} {i r : Nat} (h : romSr v i = some r) : r ∈ sampleRateRow v :=
  List.mem_of_getElem? h

/-- No table value overflows its register, and no sample rate is zero (R25, R134). -/
theorem bitrateRow_le (v : Version) (l : Layer) : ∀ k ∈ bitrateRow v l, k ≤ 448 := by
  cases v <;> cases l <;> decide

theorem sampleRateRow_range (v : Version) : ∀ r ∈ sampleRateRow v, 8000 ≤ r ∧ r ≤ 48000 := by
  cases v <;> decide

theorem romSpf_values (v : Version) (l : Layer) : romSpf v l = 384 ∨ romSpf v l = 576 ∨ romSpf v l = 1152 := by
  cases v <;> cases l <;> decide

/-! ### Field decoders (R104, R105) -/

/-- A bitrate is decoded unless the index is 0 or 15. -/
theorem decBitrate_cases (v : Version) (l : Layer) (b : BitVec 4) :
    ((b = 0#4 ∨ b = 15#4) ∧ decBitrate v l b = none) ∨
    (b ≠ 0#4 ∧ b ≠ 15#4 ∧ ∃ k, romBr v l b.toNat = some k ∧ 0 < k ∧ decBitrate v l b = some (k * 1000)) := by
  have hb : ∀ b : BitVec 4, (b = 0#4 ∨ b = 15#4) ∧ decBitrate v l b = none ∨
      b ≠ 0#4 ∧ b ≠ 15#4 ∧ (romBr v l b.toNat).any (0 < ·) = true := by
    cases v <;> cases l <;> decide
  rcases hb b with h | ⟨h0, h15, h⟩
  · exact .inl h
  · obtain ⟨k, hk, hp⟩ := (Option.any_eq_true _ _).1 h
    have hp : 0 < k := by simpa using hp
    refine .inr ⟨h0, h15, k, hk, hp, ?_⟩
    simp only [decBitrate, hk]
    rw [if_neg (by omega)]

/-- A sample rate is decoded unless the index is 3. -/
theorem decSampleRate_cases (v : Version) (b : BitVec 2) :
    (b = 3#2 ∧ decSampleRate v b = none) ∨
    (b ≠ 3#2 ∧ ∃ r, romSr v b.toNat = some r ∧ decSampleRate v b = some r) := by
  have hb : ∀ b : BitVec 2, b = 3#2 ∧ decSampleRate v b = none ∨ b ≠ 3#2 ∧ (romSr v b.toNat).isSome = true := by
    cases v <;> decide
  rcases hb b with h | ⟨h3, h⟩
  · exact .inl h
  · obtain ⟨r, hr⟩ := Option.isSome_iff_exists.1 h
    exact .inr ⟨h3, r, hr, hr⟩

/-! ### Frame length (R130 to R135) -/

/-- With the tables' values the length stays far below the bound of R133. -/
theorem rawFrameLength_le (c : Layer1Coeff) (v : Version) (l : Layer) (p : Bool) :
    ∀ k ∈ bitrateRow v l, ∀ r ∈ sampleRateRow v, rawFrameLength c l (romSpf v l) (k * 1000) r p ≤ 6148 := by
  cases c <;> cases v <;> cases l <;> cases p <;> decide

/-- With the tables' values the length is at least 24, but for the table value 0. -/
theorem rawFrameLength_ge (c : Layer1Coeff) (v : Version) (l : Layer) (p : Bool) :
    ∀ k ∈ bitrateRow v l, ∀ r ∈ sampleRateRow v, 0 < k → 24 ≤ rawFrameLength c l (romSpf v l) (k * 1000) r p := by
  cases c <;> cases v <;> cases l <;> cases p <;> decide

/-- The bound of R133 never fires with the tables' values. -/
theorem frameLength_eq (c : Layer1Coeff) {v : Version} {l : Layer} (p : Bool) {k r : Nat}
    (hk : k ∈ bitrateRow v l) (hr : r ∈ sampleRateRow v) :
    frameLength c l (romSpf v l) (k * 1000) r p = some (rawFrameLength c l (romSpf v l) (k * 1000) r p) := by
  have hb : ¬ rawFrameLength c l (romSpf v l) (k * 1000) r p > maxFrameLen := by
    have := rawFrameLength_le c v l p k hk r hr
    unfold maxFrameLen
    omega
  simp only [frameLength, if_neg hb]

/-! ### DECODE of a class (R109) -/

/-- Everything `decodeClass` can answer: invalid for the field values of R87 rows 4 to 6, else the record of R109 with the
tables' values. -/
theorem decodeClass_cases (c : Config) (v : Version) (l : Layer) (f : HdrFields) :
    ((f.bri = 0#4 ∨ f.bri = 15#4 ∨ f.sri = 3#2) ∧ decodeClass c v l f = none) ∨
    (f.bri ≠ 0#4 ∧ f.bri ≠ 15#4 ∧ f.sri ≠ 3#2 ∧ ∃ k r, romBr v l f.bri.toNat = some k ∧ 0 < k ∧
      romSr v f.sri.toNat = some r ∧ decodeClass c v l f = some {
        version := v, vcode := versionCode v, layer := l, lcode := layerCode l,
        bitRate := BitVec.ofNat 19 (k * 1000), sampleRate := BitVec.ofNat 16 r,
        channelMode := decChannelMode f.chm, cmcode := f.chm, crcPresent := decCrc f.prot,
        padding := decPadding f.pad,
        frameLengthBytes :=
          BitVec.ofNat 15 (rawFrameLength c.layer1Coeff l (romSpf v l) (k * 1000) r (decPadding f.pad)),
        sampleCount := BitVec.ofNat 11 (romSpf v l), word := encodeClass v l f }) := by
  rcases decBitrate_cases v l f.bri with ⟨hb, eb⟩ | ⟨h0, h15, k, hk, hp, eb⟩
  · refine .inl ⟨hb.elim .inl (fun h => .inr (.inl h)), ?_⟩
    simp only [decodeClass, eb]
  · rcases decSampleRate_cases v f.sri with ⟨hs, es⟩ | ⟨h3, r, hr, es⟩
    · refine .inl ⟨.inr (.inr hs), ?_⟩
      simp only [decodeClass, eb, es]
    · refine .inr ⟨h0, h15, h3, k, r, hk, hp, hr, ?_⟩
      simp only [decodeClass, eb, es, frameLength_eq _ _ (romBr_mem hk) (romSr_mem hr)]

/-- The frame length and the word of a decoded header. -/
theorem decodeClass_some {c : Config} {v : Version} {l : Layer} {f : HdrFields} {h : Hdr}
    (e : decodeClass c v l f = some h) :
    24 ≤ h.frameLengthBytes.toNat ∧ h.frameLengthBytes.toNat ≤ 6148 ∧ h.word = encodeClass v l f := by
  rcases decodeClass_cases c v l f with ⟨_, e'⟩ | ⟨_, _, _, k, r, hk, hp, hr, e'⟩
  · rw [e'] at e; cases e
  · rw [e'] at e
    obtain rfl := Option.some.inj e
    have h1 := rawFrameLength_le c.layer1Coeff v l (decPadding f.pad) k (romBr_mem hk) r (romSr_mem hr)
    have h2 := rawFrameLength_ge c.layer1Coeff v l (decPadding f.pad) k (romBr_mem hk) r (romSr_mem hr) hp
    refine ⟨?_, ?_, rfl⟩ <;> simp only [BitVec.toNat_ofNat] <;> rw [Nat.mod_eq_of_lt (by omega)] <;> assumption

/-- A class whose fields are none of R87's invalid values is decoded. -/
theorem decodeClass_valid (c : Config) (v : Version) (l : Layer) {f : HdrFields} (h0 : f.bri ≠ 0#4)
    (h15 : f.bri ≠ 15#4) (h3 : f.sri ≠ 3#2) : ∃ h, decodeClass c v l f = some h := by
  rcases decodeClass_cases c v l f with ⟨h, _⟩ | ⟨_, _, _, _, _, _, _, _, e⟩
  · rcases h with h | h | h <;> contradiction
  · exact ⟨_, e⟩

/-- A class with one of R87's invalid field values is INVALID. -/
theorem decodeClass_invalid (c : Config) (v : Version) (l : Layer) {f : HdrFields}
    (h : f.bri = 0#4 ∨ f.bri = 15#4 ∨ f.sri = 3#2) : decodeClass c v l f = none := by
  rcases decodeClass_cases c v l f with ⟨_, e⟩ | ⟨h0, h15, h3, _⟩
  · exact e
  · rcases h with h | h | h <;> contradiction

end Sys2Proof.Machine
end

