-- ==== Sys2Proof/Laws/State.lean ====
section
/-! SUPPORT. The fields of every named update of the state, one lemma per field, each true by `rfl`, so that no later proof
unfolds an update; and the fields the two conditional updates leave alone. -/

namespace Sys2Proof.Machine

variable (s : State)

/-! ### `complete` -/

@[simp] theorem complete_cfg (r : Result) : (complete r s).cfg = s.cfg := rfl
@[simp] theorem complete_phase (r : Result) : (complete r s).phase = s.phase := rfl
@[simp] theorem complete_exkind (r : Result) : (complete r s).exkind = s.exkind := rfl
@[simp] theorem complete_riffChecked (r : Result) : (complete r s).riffChecked = s.riffChecked := rfl
@[simp] theorem complete_w (r : Result) : (complete r s).w = s.w := rfl
@[simp] theorem complete_wfill (r : Result) : (complete r s).wfill = s.wfill := rfl
@[simp] theorem complete_hdr (r : Result) : (complete r s).hdr = s.hdr := rfl
@[simp] theorem complete_pcnt (r : Result) : (complete r s).pcnt = s.pcnt := rfl
@[simp] theorem complete_mode (r : Result) : (complete r s).mode = s.mode := rfl
@[simp] theorem complete_upos (r : Result) : (complete r s).upos = s.upos := rfl
@[simp] theorem complete_fb (r : Result) : (complete r s).fb = s.fb := rfl
@[simp] theorem complete_busy (r : Result) : (complete r s).busy = false := rfl
@[simp] theorem complete_done (r : Result) : (complete r s).done = true := rfl
@[simp] theorem complete_result (r : Result) : (complete r s).result = r := rfl
@[simp] theorem complete_ctx (r : Result) : (complete r s).ctx = .idle := rfl
@[simp] theorem complete_cid (r : Result) : (complete r s).cid = s.cid := rfl
@[simp] theorem complete_csz (r : Result) : (complete r s).csz = s.csz := rfl
@[simp] theorem complete_stale (r : Result) : (complete r s).stale = s.stale := rfl
@[simp] theorem complete_src (r : Result) : (complete r s).src = s.src := rfl
@[simp] theorem complete_cursor (r : Result) : (complete r s).cursor = s.cursor := rfl
@[simp] theorem complete_env (r : Result) : (complete r s).env = s.env := rfl
@[simp] theorem complete_rdata (r : Result) : (complete r s).rdata = s.rdata := rfl

/-! ### `exhaust` -/

@[simp] theorem exhaust_cfg (k : ExKind) : (exhaust k s).cfg = s.cfg := rfl
@[simp] theorem exhaust_phase (k : ExKind) : (exhaust k s).phase = .exhausted := rfl
@[simp] theorem exhaust_exkind (k : ExKind) : (exhaust k s).exkind = some k := rfl
@[simp] theorem exhaust_riffChecked (k : ExKind) : (exhaust k s).riffChecked = s.riffChecked := rfl
@[simp] theorem exhaust_w (k : ExKind) : (exhaust k s).w = s.w := rfl
@[simp] theorem exhaust_wfill (k : ExKind) : (exhaust k s).wfill = s.wfill := rfl
@[simp] theorem exhaust_hdr (k : ExKind) : (exhaust k s).hdr = s.hdr := rfl
@[simp] theorem exhaust_pcnt (k : ExKind) : (exhaust k s).pcnt = s.pcnt := rfl
@[simp] theorem exhaust_mode (k : ExKind) : (exhaust k s).mode = s.mode := rfl
@[simp] theorem exhaust_upos (k : ExKind) : (exhaust k s).upos = s.upos := rfl
@[simp] theorem exhaust_fb (k : ExKind) : (exhaust k s).fb = s.fb := rfl
@[simp] theorem exhaust_busy (k : ExKind) : (exhaust k s).busy = false := rfl
@[simp] theorem exhaust_done (k : ExKind) : (exhaust k s).done = true := rfl
@[simp] theorem exhaust_result (k : ExKind) : (exhaust k s).result = exhaustResult k := rfl
@[simp] theorem exhaust_ctx (k : ExKind) : (exhaust k s).ctx = .idle := rfl
@[simp] theorem exhaust_cid (k : ExKind) : (exhaust k s).cid = s.cid := rfl
@[simp] theorem exhaust_csz (k : ExKind) : (exhaust k s).csz = s.csz := rfl
@[simp] theorem exhaust_stale (k : ExKind) : (exhaust k s).stale = s.stale := rfl
@[simp] theorem exhaust_src (k : ExKind) : (exhaust k s).src = s.src := rfl
@[simp] theorem exhaust_cursor (k : ExKind) : (exhaust k s).cursor = s.cursor := rfl
@[simp] theorem exhaust_env (k : ExKind) : (exhaust k s).env = s.env := rfl
@[simp] theorem exhaust_rdata (k : ExKind) : (exhaust k s).rdata = s.rdata := rfl

/-! ### `startFill` -/

@[simp] theorem startFill_cfg : (startFill s).cfg = s.cfg := rfl
@[simp] theorem startFill_phase : (startFill s).phase = s.phase := rfl
@[simp] theorem startFill_exkind : (startFill s).exkind = s.exkind := rfl
@[simp] theorem startFill_riffChecked : (startFill s).riffChecked = s.riffChecked := rfl
@[simp] theorem startFill_w : (startFill s).w = s.w := rfl
@[simp] theorem startFill_wfill : (startFill s).wfill = 0 := rfl
@[simp] theorem startFill_hdr : (startFill s).hdr = s.hdr := rfl
@[simp] theorem startFill_pcnt : (startFill s).pcnt = s.pcnt := rfl
@[simp] theorem startFill_mode : (startFill s).mode = s.mode := rfl
@[simp] theorem startFill_upos : (startFill s).upos = s.upos := rfl
@[simp] theorem startFill_fb : (startFill s).fb = s.fb := rfl
@[simp] theorem startFill_busy : (startFill s).busy = s.busy := rfl
@[simp] theorem startFill_done : (startFill s).done = s.done := rfl
@[simp] theorem startFill_result : (startFill s).result = s.result := rfl
@[simp] theorem startFill_ctx : (startFill s).ctx = .fill := rfl
@[simp] theorem startFill_cid : (startFill s).cid = s.cid := rfl
@[simp] theorem startFill_csz : (startFill s).csz = s.csz := rfl
@[simp] theorem startFill_stale : (startFill s).stale = s.stale := rfl
@[simp] theorem startFill_src : (startFill s).src = s.src := rfl
@[simp] theorem startFill_cursor : (startFill s).cursor = s.cursor := rfl
@[simp] theorem startFill_env : (startFill s).env = s.env := rfl
@[simp] theorem startFill_rdata : (startFill s).rdata = s.rdata := rfl

/-! ### `shiftWindow` -/

@[simp] theorem shiftWindow_cfg : (shiftWindow s).cfg = s.cfg := rfl
@[simp] theorem shiftWindow_phase : (shiftWindow s).phase = s.phase := rfl
@[simp] theorem shiftWindow_exkind : (shiftWindow s).exkind = s.exkind := rfl
@[simp] theorem shiftWindow_riffChecked : (shiftWindow s).riffChecked = s.riffChecked := rfl
@[simp] theorem shiftWindow_w : (shiftWindow s).w = { b0 := s.w.b1, b1 := s.w.b2, b2 := s.w.b3, b3 := s.w.b3 } := rfl
@[simp] theorem shiftWindow_wfill : (shiftWindow s).wfill = s.wfill := rfl
@[simp] theorem shiftWindow_hdr : (shiftWindow s).hdr = s.hdr := rfl
@[simp] theorem shiftWindow_pcnt : (shiftWindow s).pcnt = s.pcnt := rfl
@[simp] theorem shiftWindow_mode : (shiftWindow s).mode = s.mode := rfl
@[simp] theorem shiftWindow_upos : (shiftWindow s).upos = s.upos := rfl
@[simp] theorem shiftWindow_fb : (shiftWindow s).fb = s.fb := rfl
@[simp] theorem shiftWindow_busy : (shiftWindow s).busy = s.busy := rfl
@[simp] theorem shiftWindow_done : (shiftWindow s).done = s.done := rfl
@[simp] theorem shiftWindow_result : (shiftWindow s).result = s.result := rfl
@[simp] theorem shiftWindow_ctx : (shiftWindow s).ctx = .shift := rfl
@[simp] theorem shiftWindow_cid : (shiftWindow s).cid = s.cid := rfl
@[simp] theorem shiftWindow_csz : (shiftWindow s).csz = s.csz := rfl
@[simp] theorem shiftWindow_stale : (shiftWindow s).stale = s.stale := rfl
@[simp] theorem shiftWindow_src : (shiftWindow s).src = s.src := rfl
@[simp] theorem shiftWindow_cursor : (shiftWindow s).cursor = s.cursor := rfl
@[simp] theorem shiftWindow_env : (shiftWindow s).env = s.env := rfl
@[simp] theorem shiftWindow_rdata : (shiftWindow s).rdata = s.rdata := rfl

/-! ### `emitDone` -/

@[simp] theorem emitDone_cfg : (emitDone s).cfg = s.cfg := rfl
@[simp] theorem emitDone_phase : (emitDone s).phase = .seeking := rfl
@[simp] theorem emitDone_exkind : (emitDone s).exkind = s.exkind := rfl
@[simp] theorem emitDone_riffChecked : (emitDone s).riffChecked = s.riffChecked := rfl
@[simp] theorem emitDone_w : (emitDone s).w = s.w := rfl
@[simp] theorem emitDone_wfill : (emitDone s).wfill = s.wfill := rfl
@[simp] theorem emitDone_hdr : (emitDone s).hdr = s.hdr := rfl
@[simp] theorem emitDone_pcnt : (emitDone s).pcnt = s.pcnt := rfl
@[simp] theorem emitDone_mode : (emitDone s).mode = s.mode := rfl
@[simp] theorem emitDone_upos : (emitDone s).upos = s.upos := rfl
@[simp] theorem emitDone_fb : (emitDone s).fb = s.fb := rfl
@[simp] theorem emitDone_busy : (emitDone s).busy = false := rfl
@[simp] theorem emitDone_done : (emitDone s).done = true := rfl
@[simp] theorem emitDone_result : (emitDone s).result = .frame := rfl
@[simp] theorem emitDone_ctx : (emitDone s).ctx = .idle := rfl
@[simp] theorem emitDone_cid : (emitDone s).cid = s.cid := rfl
@[simp] theorem emitDone_csz : (emitDone s).csz = s.csz := rfl
@[simp] theorem emitDone_stale : (emitDone s).stale = s.stale := rfl
@[simp] theorem emitDone_src : (emitDone s).src = s.src := rfl
@[simp] theorem emitDone_cursor : (emitDone s).cursor = s.cursor := rfl
@[simp] theorem emitDone_env : (emitDone s).env = s.env := rfl
@[simp] theorem emitDone_rdata : (emitDone s).rdata = s.rdata := rfl

/-! ### `startUnwrap` -/

@[simp] theorem startUnwrap_cfg : (startUnwrap s).cfg = s.cfg := rfl
@[simp] theorem startUnwrap_phase : (startUnwrap s).phase = s.phase := rfl
@[simp] theorem startUnwrap_exkind : (startUnwrap s).exkind = s.exkind := rfl
@[simp] theorem startUnwrap_riffChecked : (startUnwrap s).riffChecked = s.riffChecked := rfl
@[simp] theorem startUnwrap_w : (startUnwrap s).w = s.w := rfl
@[simp] theorem startUnwrap_wfill : (startUnwrap s).wfill = s.wfill := rfl
@[simp] theorem startUnwrap_hdr : (startUnwrap s).hdr = s.hdr := rfl
@[simp] theorem startUnwrap_pcnt : (startUnwrap s).pcnt = s.pcnt := rfl
@[simp] theorem startUnwrap_mode : (startUnwrap s).mode = s.mode := rfl
@[simp] theorem startUnwrap_upos : (startUnwrap s).upos = s.upos := rfl
@[simp] theorem startUnwrap_fb : (startUnwrap s).fb = s.fb := rfl
@[simp] theorem startUnwrap_busy : (startUnwrap s).busy = s.busy := rfl
@[simp] theorem startUnwrap_done : (startUnwrap s).done = s.done := rfl
@[simp] theorem startUnwrap_result : (startUnwrap s).result = s.result := rfl
@[simp] theorem startUnwrap_ctx : (startUnwrap s).ctx = .rewind := rfl
@[simp] theorem startUnwrap_cid : (startUnwrap s).cid = s.cid := rfl
@[simp] theorem startUnwrap_csz : (startUnwrap s).csz = s.csz := rfl
@[simp] theorem startUnwrap_stale : (startUnwrap s).stale = s.stale := rfl
@[simp] theorem startUnwrap_src : (startUnwrap s).src = s.src := rfl
@[simp] theorem startUnwrap_cursor : (startUnwrap s).cursor = s.cursor := rfl
@[simp] theorem startUnwrap_env : (startUnwrap s).env = s.env := rfl
@[simp] theorem startUnwrap_rdata : (startUnwrap s).rdata = s.rdata := rfl

/-! ### `hardReset` -/

@[simp] theorem hardReset_cfg : (hardReset s).cfg = s.cfg := rfl
@[simp] theorem hardReset_phase : (hardReset s).phase = State.reset.phase := rfl
@[simp] theorem hardReset_exkind : (hardReset s).exkind = State.reset.exkind := rfl
@[simp] theorem hardReset_riffChecked : (hardReset s).riffChecked = State.reset.riffChecked := rfl
@[simp] theorem hardReset_w : (hardReset s).w = State.reset.w := rfl
@[simp] theorem hardReset_wfill : (hardReset s).wfill = State.reset.wfill := rfl
@[simp] theorem hardReset_hdr : (hardReset s).hdr = State.reset.hdr := rfl
@[simp] theorem hardReset_pcnt : (hardReset s).pcnt = State.reset.pcnt := rfl
@[simp] theorem hardReset_mode : (hardReset s).mode = State.reset.mode := rfl
@[simp] theorem hardReset_upos : (hardReset s).upos = State.reset.upos := rfl
@[simp] theorem hardReset_fb : (hardReset s).fb = State.reset.fb := rfl
@[simp] theorem hardReset_busy : (hardReset s).busy = State.reset.busy := rfl
@[simp] theorem hardReset_done : (hardReset s).done = State.reset.done := rfl
@[simp] theorem hardReset_result : (hardReset s).result = State.reset.result := rfl
@[simp] theorem hardReset_ctx : (hardReset s).ctx = State.reset.ctx := rfl
@[simp] theorem hardReset_cid : (hardReset s).cid = State.reset.cid := rfl
@[simp] theorem hardReset_csz : (hardReset s).csz = State.reset.csz := rfl
@[simp] theorem hardReset_stale : (hardReset s).stale = s.stale ++ (pendingTxn s).toList := rfl
@[simp] theorem hardReset_src : (hardReset s).src = s.src := rfl
@[simp] theorem hardReset_cursor : (hardReset s).cursor = s.cursor := rfl
@[simp] theorem hardReset_env : (hardReset s).env = s.env := rfl
@[simp] theorem hardReset_rdata : (hardReset s).rdata = s.rdata := rfl

/-! ### `copyHeader` and `payloadLoop`: the fields they leave alone -/

@[simp] theorem copyHeader_cfg : (copyHeader s).cfg = s.cfg := by unfold copyHeader; split <;> rfl
@[simp] theorem copyHeader_phase : (copyHeader s).phase = s.phase := by unfold copyHeader; split <;> rfl
@[simp] theorem copyHeader_exkind : (copyHeader s).exkind = s.exkind := by unfold copyHeader; split <;> rfl
@[simp] theorem copyHeader_riffChecked : (copyHeader s).riffChecked = s.riffChecked := by unfold copyHeader; split <;> rfl
@[simp] theorem copyHeader_w : (copyHeader s).w = s.w := by unfold copyHeader; split <;> rfl
@[simp] theorem copyHeader_wfill : (copyHeader s).wfill = s.wfill := by unfold copyHeader; split <;> rfl
@[simp] theorem copyHeader_hdr : (copyHeader s).hdr = s.hdr := by unfold copyHeader; split <;> rfl
@[simp] theorem copyHeader_pcnt : (copyHeader s).pcnt = s.pcnt := by unfold copyHeader; split <;> rfl
@[simp] theorem copyHeader_mode : (copyHeader s).mode = s.mode := by unfold copyHeader; split <;> rfl
@[simp] theorem copyHeader_upos : (copyHeader s).upos = s.upos := by unfold copyHeader; split <;> rfl
@[simp] theorem copyHeader_busy : (copyHeader s).busy = s.busy := by unfold copyHeader; split <;> rfl
@[simp] theorem copyHeader_done : (copyHeader s).done = s.done := by unfold copyHeader; split <;> rfl
@[simp] theorem copyHeader_result : (copyHeader s).result = s.result := by unfold copyHeader; split <;> rfl
@[simp] theorem copyHeader_ctx : (copyHeader s).ctx = s.ctx := by unfold copyHeader; split <;> rfl
@[simp] theorem copyHeader_cid : (copyHeader s).cid = s.cid := by unfold copyHeader; split <;> rfl
@[simp] theorem copyHeader_csz : (copyHeader s).csz = s.csz := by unfold copyHeader; split <;> rfl
@[simp] theorem copyHeader_stale : (copyHeader s).stale = s.stale := by unfold copyHeader; split <;> rfl
@[simp] theorem copyHeader_src : (copyHeader s).src = s.src := by unfold copyHeader; split <;> rfl
@[simp] theorem copyHeader_cursor : (copyHeader s).cursor = s.cursor := by unfold copyHeader; split <;> rfl
@[simp] theorem copyHeader_env : (copyHeader s).env = s.env := by unfold copyHeader; split <;> rfl
@[simp] theorem copyHeader_rdata : (copyHeader s).rdata = s.rdata := by unfold copyHeader; split <;> rfl

@[simp] theorem payloadLoop_cfg : (payloadLoop s).cfg = s.cfg := by unfold payloadLoop; split <;> rfl
@[simp] theorem payloadLoop_exkind : (payloadLoop s).exkind = s.exkind := by unfold payloadLoop; split <;> rfl
@[simp] theorem payloadLoop_riffChecked : (payloadLoop s).riffChecked = s.riffChecked := by unfold payloadLoop; split <;> rfl
@[simp] theorem payloadLoop_w : (payloadLoop s).w = s.w := by unfold payloadLoop; split <;> rfl
@[simp] theorem payloadLoop_wfill : (payloadLoop s).wfill = s.wfill := by unfold payloadLoop; split <;> rfl
@[simp] theorem payloadLoop_hdr : (payloadLoop s).hdr = s.hdr := by unfold payloadLoop; split <;> rfl
@[simp] theorem payloadLoop_pcnt : (payloadLoop s).pcnt = s.pcnt := by unfold payloadLoop; split <;> rfl
@[simp] theorem payloadLoop_mode : (payloadLoop s).mode = s.mode := by unfold payloadLoop; split <;> rfl
@[simp] theorem payloadLoop_upos : (payloadLoop s).upos = s.upos := by unfold payloadLoop; split <;> rfl
@[simp] theorem payloadLoop_fb : (payloadLoop s).fb = s.fb := by unfold payloadLoop; split <;> rfl
@[simp] theorem payloadLoop_cid : (payloadLoop s).cid = s.cid := by unfold payloadLoop; split <;> rfl
@[simp] theorem payloadLoop_csz : (payloadLoop s).csz = s.csz := by unfold payloadLoop; split <;> rfl
@[simp] theorem payloadLoop_stale : (payloadLoop s).stale = s.stale := by unfold payloadLoop; split <;> rfl
@[simp] theorem payloadLoop_src : (payloadLoop s).src = s.src := by unfold payloadLoop; split <;> rfl
@[simp] theorem payloadLoop_cursor : (payloadLoop s).cursor = s.cursor := by unfold payloadLoop; split <;> rfl
@[simp] theorem payloadLoop_env : (payloadLoop s).env = s.env := by unfold payloadLoop; split <;> rfl
@[simp] theorem payloadLoop_rdata : (payloadLoop s).rdata = s.rdata := by unfold payloadLoop; split <;> rfl

/-- Everything `payloadLoop` can do: wait for a byte below the frame's length, or deliver the frame (R162, R164). -/
theorem payloadLoop_cases :
    (s.pcnt < s.hdr.frameLengthBytes.toNat ∧ payloadLoop s = { s with ctx := .payload }) ∨
    (s.hdr.frameLengthBytes.toNat ≤ s.pcnt ∧ payloadLoop s = emitDone s) := by
  unfold payloadLoop
  split
  · exact .inl ⟨‹_›, rfl⟩
  · exact .inr ⟨by omega, rfl⟩

end Sys2Proof.Machine
end

