-- ==== Sys2Proof/Laws/Ops.lean ====
section
/-! SUPPORT. One spec lemma per shared operation: everything it can do, said once. -/

namespace Sys2Proof.Machine

variable {s t : State}

/-! ### Source transactions -/

/-- The source moves its cursor and nothing else. -/
theorem performTxn_state (x : Txn) (d : Draw) (s : State) :
    ∃ c, (performTxn x d s).2 = { s with cursor := c } := by
  cases d <;> cases x <;> simp only [performTxn]
  · split
    · exact ⟨_, rfl⟩
    · exact ⟨s.cursor, rfl⟩
  · exact ⟨_, rfl⟩
  · exact ⟨s.cursor, rfl⟩
  · exact ⟨s.cursor, rfl⟩

@[simp] theorem performTxn_error (x : Txn) (s : State) : performTxn x .error s = (.error, s) := by
  cases x <;> rfl

@[simp] theorem performTxn_seek (p : Nat) (s : State) :
    performTxn (.seek p) .normal s = (.ok, { s with cursor := p }) := rfl

theorem performTxn_read_data {b : Byte} (h : s.src[s.cursor]? = some b) :
    performTxn .read .normal s = (.data b, { s with cursor := s.cursor + 1 }) := by
  simp [performTxn, h]

theorem performTxn_read_end (h : s.src.length ≤ s.cursor) :
    performTxn .read .normal s = (.eos, s) := by
  simp [performTxn, List.getElem?_eq_none h]

/-- Everything a read can answer (R61, R62). -/
theorem performTxn_read_cases (d : Draw) (s : State) :
    (∃ b, s.src[s.cursor]? = some b ∧ d = .normal ∧
      performTxn .read d s = (.data b, { s with cursor := s.cursor + 1 })) ∨
    (s.src.length ≤ s.cursor ∧ d = .normal ∧ performTxn .read d s = (.eos, s)) ∨
    (d = .error ∧ performTxn .read d s = (.error, s)) := by
  cases d with
  | error => exact .inr (.inr ⟨rfl, by simp⟩)
  | normal =>
    cases h : s.src[s.cursor]? with
    | some b => exact .inl ⟨b, rfl, rfl, performTxn_read_data h⟩
    | none =>
      have h := List.getElem?_eq_none_iff.1 h
      exact .inr (.inl ⟨h, rfl, performTxn_read_end h⟩)

/-! ### Reacting to a response -/

@[simp] theorem onByte_data (b : Byte) (k : ExKind) (s : State) (go : Byte → State → Out) :
    onByte (.data b) k s go = go b s := rfl

@[simp] theorem onByte_eos (k : ExKind) (s : State) (go : Byte → State → Out) :
    onByte .eos k s go = .next (exhaust k s) := rfl

@[simp] theorem onByte_error (k : ExKind) (s : State) (go : Byte → State → Out) :
    onByte .error k s go = .next (exhaust .sourceError s) := rfl

@[simp] theorem onSeek_ok (s : State) (go : State → Out) : onSeek .ok s go = go s := rfl

@[simp] theorem onSeek_error (s : State) (go : State → Out) :
    onSeek .error s go = .next (exhaust .sourceError s) := rfl

/-- `exhaust` writes the state `State.ended` describes. -/
theorem exhaust_eq_ended (k : ExKind) (s : State) : exhaust k s = s.ended k (exhaustResult k) := rfl

/-! ### Header and payload -/

/-- The frame-buffer bytes after `copyHeader` (R161). -/
theorem copyHeader_read (s : State) (a : Nat) :
    Memory.read (copyHeader s).fb a =
      if s.mode = .full then
        if a = 3 then some s.w.b3 else if a = 2 then some s.w.b2 else if a = 1 then some s.w.b1
        else if a = 0 then some s.w.b0 else Memory.read s.fb a
      else Memory.read s.fb a := by
  unfold copyHeader
  split <;> simp_all [Memory.read_write]

/-- `copyHeader` keeps the canonical form. -/
theorem copyHeader_wf (h : Memory.wf s.fb) : Memory.wf (copyHeader s).fb := by
  unfold copyHeader
  split
  · exact Memory.wf_write _ (Memory.wf_write _ (Memory.wf_write _ (Memory.wf_write _ h (by decide)) (by decide))
      (by decide)) (by decide)
  · exact h

/-- In HEADER_ONLY mode `copyHeader` does nothing. -/
theorem copyHeader_headerOnly (h : s.mode = .headerOnly) : copyHeader s = s := by simp [copyHeader, h]

/-- Everything `storePayload` can do (R162, R60). -/
theorem storePayload_cases (s : State) (i : Nat) (v : Byte) :
    (s.mode = .headerOnly ∧ storePayload s i v = .next s) ∨
    (s.mode = .full ∧ i < fbSize ∧ storePayload s i v = .next { s with fb := Memory.write s.fb i v }) ∨
    (s.mode = .full ∧ fbSize ≤ i ∧ storePayload s i v = .fault .fbAddressAbsent) := by
  cases h : s.mode with
  | headerOnly => exact .inl ⟨rfl, by simp [storePayload, h]⟩
  | full =>
    by_cases hi : i < fbSize
    · exact .inr (.inl ⟨rfl, hi, by simp [storePayload, h, hi]⟩)
    · exact .inr (.inr ⟨rfl, by omega, by simp [storePayload, h, hi]⟩)

/-! ### Commands -/

@[simp] theorem acceptCommand_busy (m : Mode) (h : s.busy = true) : acceptCommand m s = .next s := by
  simp [acceptCommand, h]

/-- Everything an accepted command can do at once (R150, R154, R155, R232). -/
theorem acceptCommand_cases (m : Mode) (h : s.busy = false) :
    (∃ k, s.phase = .exhausted ∧ s.exkind = some k ∧ acceptCommand m s =
      .next (complete (exhaustResult k) { s with busy := true, done := false, mode := m })) ∨
    (s.phase = .exhausted ∧ s.exkind = none ∧ acceptCommand m s = .fault .exkindUnwritten) ∨
    (s.phase ≠ .exhausted ∧ (s.result ≠ .none ∨ s.cursor = 0) ∧ acceptCommand m s =
      .next (startFill { s with busy := true, done := false, mode := m })) ∨
    (s.phase ≠ .exhausted ∧ s.result = .none ∧ s.cursor ≠ 0 ∧ acceptCommand m s = .refused .cursorNotAtStart) := by
  simp only [acceptCommand, h, startNextFrame]
  cases s.phase
  case exhausted =>
    cases s.exkind with
    | none => simp
    | some k => simp
  all_goals
    by_cases hr : s.result = .none <;> by_cases hc : s.cursor = 0 <;> simp [hr, hc]

/-- Everything binding a source can do (R232, R233, U15, U17). -/
theorem bindSource_cases (bs : List Byte) (s : State) :
    (s.busy = false ∧ s.result = .none ∧ bs.length < 2 ^ 63 ∧
      bindSource bs s = .next { s with src := bs, cursor := 0, stale := [] }) ∨
    ((s.busy = true ∨ s.result ≠ .none) ∧ bindSource bs s = .refused .sourceRebound) ∨
    (2 ^ 63 ≤ bs.length ∧ bindSource bs s = .refused .sourceTooLong) := by
  unfold bindSource
  split
  · exact .inr (.inl ⟨‹_›, rfl⟩)
  · rename_i h
    rw [not_or, not_not] at h
    split
    · exact .inr (.inr ⟨‹_›, rfl⟩)
    · exact .inl ⟨by simpa using h.1, h.2, by omega, rfl⟩

/-! ### Four-byte registers -/

@[simp] theorem Quad.set_zero (q : Quad) (v : Byte) : q.set 0 v = { q with b0 := v } := rfl
@[simp] theorem Quad.set_one (q : Quad) (v : Byte) : q.set 1 v = { q with b1 := v } := rfl
@[simp] theorem Quad.set_two (q : Quad) (v : Byte) : q.set 2 v = { q with b2 := v } := rfl
@[simp] theorem Quad.set_three (q : Quad) (v : Byte) : q.set 3 v = { q with b3 := v } := rfl

end Sys2Proof.Machine
end

