-- ==== Sys2Proof/Laws/PerInstr.lean ====
section
/-! SUPPORT. Per-instruction family MatchesRow: the word of a well-formed instruction matches its row of the opcode table
(mask and match of R88 and R90; REJECT_NOSYNC is a negated match). -/

namespace Sys2Proof.Laws.MatchesRow

/-- The instruction's word matches its row. -/
def Statement (i : Instr) : Prop :=
  i.wf = true →
  match i with
  | .hdrV1LI _ => encode i &&& 0xFFFE0000#32 = 0xFFFE0000#32
  | .hdrV1LII _ => encode i &&& 0xFFFE0000#32 = 0xFFFC0000#32
  | .hdrV1LIII _ => encode i &&& 0xFFFE0000#32 = 0xFFFA0000#32
  | .hdrV2LI _ => encode i &&& 0xFFFE0000#32 = 0xFFF60000#32
  | .hdrV2LII _ => encode i &&& 0xFFFE0000#32 = 0xFFF40000#32
  | .hdrV2LIII _ => encode i &&& 0xFFFE0000#32 = 0xFFF20000#32
  | .hdrV25LI _ => encode i &&& 0xFFFE0000#32 = 0xFFE60000#32
  | .hdrV25LII _ => encode i &&& 0xFFFE0000#32 = 0xFFE40000#32
  | .hdrV25LIII _ => encode i &&& 0xFFFE0000#32 = 0xFFE20000#32
  | .rejectNoSync _ _ => encode i &&& 0xFFE00000#32 ≠ 0xFFE00000#32
  | .rejectReservedVersion _ => encode i &&& 0xFFF80000#32 = 0xFFE80000#32
  | .rejectReservedLayer _ _ => encode i &&& 0xFFE60000#32 = 0xFFE00000#32
  | .nop _ => encode i &&& 0x00000003#32 = 0x00000000#32
  | .nextFrame _ => encode i &&& 0x00000003#32 = 0x00000001#32
  | .nextHeader _ => encode i &&& 0x00000003#32 = 0x00000002#32
  | .cmdReserved _ => encode i &&& 0x00000003#32 = 0x00000003#32

/-- The class bits of an encoded header are those of its row (R80, R88). -/
theorem encodeClass_classBits (v : Version) (l : Layer) (f : HdrFields) (c : Word)
    (hc : c.extractLsb' 17 15 = 0x7FF#11 ++ versionCode v ++ layerCode l) (hz : ∀ i, i < 17 → c.getLsbD i = false) :
    encodeClass v l f &&& 0xFFFE0000#32 = c := by
  rw [and_highMask_eq_iff _ _ _ 17 15 rfl (by decide) hz, hc, classBits_eq]
  simp

/-- The code of a command word is its bits under mask 3 (R90). -/
theorem command_code_mask (g : BitVec 30) (c : BitVec 2) : (g ++ c : BitVec 32) &&& 0x00000003#32 = c.zeroExtend 32 := by
  apply BitVec.eq_of_getLsbD_eq
  intro i hi
  simp only [BitVec.getLsbD_and, BitVec.getLsbD_append, BitVec.getLsbD_setWidth]
  interval_cases i <;> simp

theorem hdrV1LI (f : HdrFields) : Statement (.hdrV1LI f) := fun _ => encodeClass_classBits .v1 .i f _ (by decide) (by decide)

theorem hdrV1LII (f : HdrFields) : Statement (.hdrV1LII f) := fun _ => encodeClass_classBits .v1 .ii f _ (by decide) (by decide)

theorem hdrV1LIII (f : HdrFields) : Statement (.hdrV1LIII f) := fun _ => encodeClass_classBits .v1 .iii f _ (by decide) (by decide)

theorem hdrV2LI (f : HdrFields) : Statement (.hdrV2LI f) := fun _ => encodeClass_classBits .v2 .i f _ (by decide) (by decide)

theorem hdrV2LII (f : HdrFields) : Statement (.hdrV2LII f) := fun _ => encodeClass_classBits .v2 .ii f _ (by decide) (by decide)

theorem hdrV2LIII (f : HdrFields) : Statement (.hdrV2LIII f) := fun _ => encodeClass_classBits .v2 .iii f _ (by decide) (by decide)

theorem hdrV25LI (f : HdrFields) : Statement (.hdrV25LI f) := fun _ => encodeClass_classBits .v25 .i f _ (by decide) (by decide)

theorem hdrV25LII (f : HdrFields) : Statement (.hdrV25LII f) := fun _ => encodeClass_classBits .v25 .ii f _ (by decide) (by decide)

theorem hdrV25LIII (f : HdrFields) : Statement (.hdrV25LIII f) := fun _ => encodeClass_classBits .v25 .iii f _ (by decide) (by decide)

theorem rejectNoSync (sync : BitVec 11) (rest : BitVec 21) : Statement (.rejectNoSync sync rest) := by
  intro h
  show (sync ++ rest : BitVec 32) &&& 0xFFE00000#32 ≠ 0xFFE00000#32
  rw [Ne, and_highMask_eq_iff _ _ _ 21 11 rfl (by decide) (by decide), extract_high]
  simpa [Instr.wf] using h

theorem rejectReservedVersion (rest : BitVec 19) : Statement (.rejectReservedVersion rest) := by
  intro _
  show (0x7FF#11 ++ 0b01#2 ++ rest : BitVec 32) &&& 0xFFF80000#32 = 0xFFE80000#32
  rw [and_highMask_eq_iff _ _ _ 19 13 rfl (by decide) (by decide)]
  exact extract_high _ rest

theorem rejectReservedLayer (ver : BitVec 2) (rest : BitVec 17) : Statement (.rejectReservedLayer ver rest) := by
  intro _
  show (0x7FF#11 ++ ver ++ 0b00#2 ++ rest : BitVec 32) &&& 0xFFE60000#32 = 0xFFE00000#32
  apply BitVec.eq_of_getLsbD_eq
  intro i hi
  simp only [BitVec.getLsbD_and, BitVec.getLsbD_append]
  interval_cases i <;> simp

theorem nop (ign : BitVec 30) : Statement (.nop ign) := fun _ => command_code_mask ign 0#2

theorem nextFrame (ign : BitVec 30) : Statement (.nextFrame ign) := fun _ => command_code_mask ign 1#2

theorem nextHeader (ign : BitVec 30) : Statement (.nextHeader ign) := fun _ => command_code_mask ign 2#2

theorem cmdReserved (ign : BitVec 30) : Statement (.cmdReserved ign) := fun _ => command_code_mask ign 3#2

end Sys2Proof.Laws.MatchesRow
end

