-- ==== Sys2Proof/Laws/Step.lean ====
section
/-! SUPPORT. What a step is, one lemma per kind of input, and what the command in progress does with each kind of response.
Provers cite these and do not unfold `step`, `takeEvent` or `react`. -/

namespace Sys2Proof.Machine

variable {s : State} {rest : List Event}

/-! ### Steps by input -/

theorem step_idle (h : s.env = []) : step s = .next s := by simp [step, h]

theorem step_event {e : Event} (h : s.env = e :: rest) : step s = takeEvent e { s with env := rest } := by
  simp [step, h]

theorem step_hostRead {o n : Nat} (h : s.env = .hostRead o n :: rest) :
    step s = hostRead o n { s with env := rest } := step_event h

theorem step_hostWrite {o n : Nat} {v : Word} (h : s.env = .hostWrite o n v :: rest) :
    step s = hostWrite o n v { s with env := rest } := step_event h

theorem step_rst (h : s.env = .rst :: rest) : step s = .next (hardReset { s with env := rest }) := step_event h

theorem step_bind {bs : List Byte} (h : s.env = .bind bs :: rest) :
    step s = bindSource bs { s with env := rest } := step_event h

/-- An answer goes to the transaction the command waits for. -/
theorem sourceAnswers_pending (d : Draw) {x : Txn} (hs : s.stale = []) (hx : pendingTxn s = some x) :
    sourceAnswers d s = react (performTxn x d s).1 (performTxn x d s).2 := by
  unfold sourceAnswers
  split
  · simp_all
  · rw [hx]

/-- The step of such an answer. -/
theorem step_answer {d : Draw} {x : Txn} (h : s.env = .answer d :: rest) (hs : s.stale = [])
    (hx : pendingTxn s = some x) :
    step s = react (performTxn x d { s with env := rest }).1 (performTxn x d { s with env := rest }).2 :=
  (step_event h).trans (sourceAnswers_pending (s := { s with env := rest }) d hs hx)

/-- An answer to a transaction a reset abandoned is discarded. -/
theorem step_answer_stale {d : Draw} {x : Txn} {xs : List Txn} (h : s.env = .answer d :: rest)
    (hs : s.stale = x :: xs) :
    step s = .next (performTxn x d { s with env := rest, stale := xs }).2 := by
  simp [step_event h, takeEvent, sourceAnswers, hs]

/-- An answer nobody waits for does nothing. -/
theorem step_answer_idle {d : Draw} (h : s.env = .answer d :: rest) (hs : s.stale = []) (hc : s.ctx = .idle) :
    step s = .next { s with env := rest } := by
  simp [step_event h, takeEvent, sourceAnswers, hs, pendingTxn, hc]

/-- A command waits for the transaction of its context. -/
theorem pendingTxn_isSome (h : s.ctx ≠ .idle) : ∃ x, pendingTxn s = some x := by
  cases hc : s.ctx <;> simp_all [pendingTxn]

/-! ### Host port -/

/-- The FB window's offsets (R40). -/
theorem inFbWindow_iff (o : Nat) : inFbWindow o = true ↔ 0x10000 ≤ o ∧ o < 0x14000 := by
  rw [inFbWindow, Bool.and_eq_true]
  exact and_congr (decide_eq_true_iff) (decide_eq_true_iff)

/-- A register access (R40, R65). -/
theorem wordAccess_iff (o n : Nat) : wordAccess o n = true ↔ n = 4 ∧ o % 4 = 0 := by
  simp [wordAccess]

/-- The result registers are valid (R50). -/
theorem resultsValid_iff (s : State) :
    resultsValid s = true ↔ s.done = true ∧ s.busy = false ∧ s.result = .frame := by
  simp [resultsValid, and_assoc]

/-! ### Host writes -/

/-- Outside CMD a host write changes nothing. -/
theorem hostWrite_cases (o n : Nat) (v : Word) (s : State) :
    (o = 0 ∧ n = 4 ∧ hostWrite o n v s = exec (decode .command v) s) ∨
    (¬ (o = 0 ∧ n = 4) ∧ hostWrite o n v s = .next s) ∨
    (¬ (o = 0 ∧ n = 4) ∧ hostWrite o n v s = .fault .hostBadAccess) := by
  unfold hostWrite
  split
  · rename_i h
    have ho : o ≠ 0 := by rintro rfl; simp [inFbWindow, fbBase] at h
    split
    · exact .inr (.inl ⟨fun e => ho e.1, rfl⟩)
    · exact .inr (.inr ⟨fun e => ho e.1, rfl⟩)
  · split
    · rename_i h
      by_cases ho : o = 0
      · exact .inl ⟨ho, by simp [wordAccess] at h; exact h.1, by simp [ho]⟩
      · exact .inr (.inl ⟨fun e => ho e.1, by simp [ho]⟩)
    · rename_i h
      refine .inr (.inr ⟨fun e => h ?_, rfl⟩)
      simp [wordAccess, e.1, e.2]

@[simp] theorem hostWrite_cmd (v : Word) (s : State) : hostWrite 0 4 v s = exec (decode .command v) s := by
  simp [hostWrite, inFbWindow, fbBase, wordAccess]

/-- A host read ends in a value for the host or in a fault; it changes nothing else. -/
theorem hostRead_cases (o n : Nat) (s : State) :
    (∃ v, hostRead o n s = .next { s with rdata := v }) ∨ (∃ e, hostRead o n s = .fault e) := by
  unfold hostRead
  split
  · split
    · split
      · exact .inl ⟨_, rfl⟩
      · exact .inr ⟨_, rfl⟩
    · exact .inr ⟨_, rfl⟩
  · split
    · split
      · exact .inl ⟨_, rfl⟩
      · exact .inr ⟨_, rfl⟩
    · exact .inr ⟨_, rfl⟩

/-! ### Commands -/

/-- The command of a CMD word by its code (R90). -/
theorem decodeCommand_cases (v : Word) :
    (v.extractLsb' 0 2 = 0b00#2 ∧ ∃ g, decodeCommand v = .nop g) ∨
    (v.extractLsb' 0 2 = 0b01#2 ∧ ∃ g, decodeCommand v = .nextFrame g) ∨
    (v.extractLsb' 0 2 = 0b10#2 ∧ ∃ g, decodeCommand v = .nextHeader g) ∨
    (v.extractLsb' 0 2 = 0b11#2 ∧ ∃ g, decodeCommand v = .cmdReserved g) := by
  have hc : ∀ c : BitVec 2, c = 0b00#2 ∨ c = 0b01#2 ∨ c = 0b10#2 ∨ c = 0b11#2 := by decide
  rcases hc (v.extractLsb' 0 2) with h | h | h | h <;> simp [decodeCommand, h]

/-- What a CMD word does by its code (R150, R151). -/
theorem exec_command_cases (v : Word) (s : State) :
    ((v.extractLsb' 0 2 = 0b00#2 ∨ v.extractLsb' 0 2 = 0b11#2) ∧ exec (decode .command v) s = .next s) ∨
    (v.extractLsb' 0 2 = 0b01#2 ∧ exec (decode .command v) s = acceptCommand .full s) ∨
    (v.extractLsb' 0 2 = 0b10#2 ∧ exec (decode .command v) s = acceptCommand .headerOnly s) := by
  rcases decodeCommand_cases v with ⟨h, g, e⟩ | ⟨h, g, e⟩ | ⟨h, g, e⟩ | ⟨h, g, e⟩
  · exact .inl ⟨.inl h, by simp [decode, e, exec, execNop]⟩
  · exact .inr (.inl ⟨h, by simp [decode, e, exec, execNextFrame]⟩)
  · exact .inr (.inr ⟨h, by simp [decode, e, exec, execNextHeader]⟩)
  · exact .inl ⟨.inr h, by simp [decode, e, exec, execCmdReserved]⟩

/-- The word of a mode's command is a CMD write that is accepted in that mode. -/
@[simp] theorem exec_commandWord (m : Mode) (ign : BitVec 30) (s : State) :
    exec (decode .command (commandWord m ign)) s = acceptCommand m s := by
  cases m
  · rcases exec_command_cases (commandWord .full ign) s with ⟨h, _⟩ | ⟨_, h⟩ | ⟨h, _⟩
    · simp [commandWord, encode] at h
    · exact h
    · simp [commandWord, encode] at h
  · rcases exec_command_cases (commandWord .headerOnly ign) s with ⟨h, _⟩ | ⟨h, _⟩ | ⟨_, h⟩
    · simp [commandWord, encode] at h
    · simp [commandWord, encode] at h
    · exact h

/-! ### Header words -/

/-- A header class runs the candidate its fields decode to. -/
@[simp] theorem exec_classInstr (v : Version) (l : Layer) (f : HdrFields) (s : State) :
    exec (classInstr v l f) s = .next (tryCandidate (decodeClass s.cfg v l f) s) := by
  cases v <;> cases l <;> rfl

/-- Every header word goes on to a latch or to a shift, never to a stop. -/
theorem exec_header_cases (h : Word) (s : State) :
    (∃ v l, decode .header h = classInstr v l (fieldsOf h) ∧ encodeClass v l (fieldsOf h) = h ∧
      exec (decode .header h) s = .next (tryCandidate (decodeClass s.cfg v l (fieldsOf h)) s)) ∨
    ((∀ v l f, decode .header h ≠ classInstr v l f) ∧ exec (decode .header h) s = .next (shiftWindow s)) := by
  rcases decodeHeader_cases h with ⟨_, e⟩ | ⟨_, _, e⟩ | ⟨_, _, _, e⟩ | ⟨v, l, hs, hv, hl, e⟩
  · refine .inr ⟨fun v l f h' => ?_, by simp only [decode, e]; rfl⟩
    exact (classInstr_ne_reject v l f).1 _ _ (by rw [← h', decode, e])
  · refine .inr ⟨fun v l f h' => ?_, by simp only [decode, e]; rfl⟩
    exact (classInstr_ne_reject v l f).2.1 _ (by rw [← h', decode, e])
  · refine .inr ⟨fun v l f h' => ?_, by simp only [decode, e]; rfl⟩
    exact (classInstr_ne_reject v l f).2.2 _ _ (by rw [← h', decode, e])
  · exact .inl ⟨v, l, e, encodeClass_fieldsOf v l hs hv hl, by simp only [decode, e]; exact exec_classInstr ..⟩

/-! ### Responses by context -/

theorem react_idle (r : Response) (h : s.ctx = .idle) : react r s = .next s := by simp [react, h]
theorem react_fill (r : Response) (h : s.ctx = .fill) : react r s = afterFill r s := by simp [react, h]
theorem react_shift (r : Response) (h : s.ctx = .shift) : react r s = afterShift r s := by simp [react, h]
theorem react_payload (r : Response) (h : s.ctx = .payload) : react r s = afterPayload r s := by simp [react, h]
theorem react_rewind (r : Response) (h : s.ctx = .rewind) : react r s = afterRewind r s := by simp [react, h]
theorem react_riffHeader (r : Response) {k : Nat} (h : s.ctx = .riffHeader k) :
    react r s = afterRiffHeader k r s := by simp [react, h]
theorem react_chunkId (r : Response) {k : Nat} (h : s.ctx = .chunkId k) :
    react r s = afterChunkId k r s := by simp [react, h]
theorem react_chunkSize (r : Response) {k : Nat} (h : s.ctx = .chunkSize k) :
    react r s = afterChunkSize k r s := by simp [react, h]
theorem react_seekData (r : Response) (h : s.ctx = .seekData) : react r s = afterSeekData r s := by simp [react, h]
theorem react_seekSkip (r : Response) (h : s.ctx = .seekSkip) : react r s = afterSeekSkip r s := by simp [react, h]

/-- ERROR ends any command (R167, R198). -/
theorem react_error (h : s.ctx ≠ .idle) : react .error s = .next (exhaust .sourceError s) := by
  cases hc : s.ctx <;> simp_all [react, afterFill, afterShift, afterPayload, afterRewind, afterRiffHeader, afterChunkId,
    afterChunkSize, afterSeekData, afterSeekSkip]

/-- A byte in FILL4 (R155): one more in the window, or the window is complete. -/
theorem afterFill_data (b : Byte) (s : State) :
    afterFill (.data b) s =
      if s.wfill + 1 < 4 then .next { s with w := s.w.set s.wfill b, wfill := s.wfill + 1 }
      else afterFillDone { s with w := s.w.set s.wfill b, wfill := s.wfill + 1 } := rfl

/-- A byte in SHIFT1 (R158). -/
theorem afterShift_data (b : Byte) (s : State) :
    afterShift (.data b) s = tryWindow { s with w := s.w.set 3 b } := rfl

/-- A payload byte the buffer has room for (R162). -/
theorem afterPayload_data (b : Byte) (h : s.pcnt < fbSize) :
    afterPayload (.data b) s = .next (payloadLoop { s with
      fb := if s.mode = .full then Memory.write s.fb s.pcnt b else s.fb, pcnt := s.pcnt + 1 }) := by
  rcases storePayload_cases s s.pcnt b with ⟨hm, e⟩ | ⟨hm, _, e⟩ | ⟨_, hi, _⟩
  · simp [afterPayload, e, hm]
  · simp [afterPayload, e, hm]
  · omega

/-! ### Answers to a read -/

/-- The step in which a read is answered with a byte. -/
theorem step_read_data {b : Byte} (hs : s.stale = []) (h : s.env = .answer .normal :: rest)
    (hb : s.src[s.cursor]? = some b) (hx : pendingTxn s = some .read) :
    step s = react (.data b) { s with env := rest, cursor := s.cursor + 1 } := by
  rw [step_answer h hs hx, performTxn_read_data (s := { s with env := rest }) hb]

/-- The step in which a read finds the end of the source. -/
theorem step_read_end (hs : s.stale = []) (h : s.env = .answer .normal :: rest) (hb : s.src.length ≤ s.cursor)
    (hx : pendingTxn s = some .read) : step s = react .eos { s with env := rest } := by
  rw [step_answer h hs hx, performTxn_read_end (s := { s with env := rest }) hb]

/-! ### The complete window -/

/-- The window holds "RIFF" exactly when its word is 0x52494646 (R190). -/
theorem eq_riffSignature_iff (q : Quad) : q = riffSignature ↔ windowWord q = 0x52494646#32 := by
  constructor
  · rintro rfl; decide
  · intro h
    obtain ⟨b0, b1, b2, b3⟩ := q
    have hb := headerByte_headerWord b0 b1 b2 b3
    simp only [windowWord] at h
    rw [h] at hb
    obtain ⟨h0, h1, h2, h3⟩ := hb
    simp only [riffSignature, Quad.mk.injEq]
    exact ⟨h0.symm, h1.symm, h2.symm, h3.symm⟩

/-- Everything a complete fill can go on to (R156): the decoder, or on the first window "RIFF" the unwrapper. -/
theorem afterFillDone_cases (s : State) :
    ((s.riffChecked = true ∨ windowWord s.w ≠ 0x52494646#32) ∧
      afterFillDone s = tryWindow { s with riffChecked := true }) ∨
    (s.riffChecked = false ∧ windowWord s.w = 0x52494646#32 ∧
      afterFillDone s = .next (startUnwrap { s with riffChecked := true })) := by
  unfold afterFillDone
  split
  · rename_i h
    exact .inl ⟨.inl h, by rw [← h]⟩
  · rename_i h
    have h : s.riffChecked = false := by simpa using h
    by_cases hw : s.w = riffSignature
    · exact .inr ⟨h, (eq_riffSignature_iff _).1 hw, if_pos hw⟩
    · exact .inl ⟨.inr fun e => hw ((eq_riffSignature_iff _).2 e), if_neg hw⟩

/-- The word in the window decides: a latch or a shift, in either case a next state (R157). -/
theorem tryWindow_cases (s : State) :
    (∃ v l, encodeClass v l (fieldsOf (windowWord s.w)) = windowWord s.w ∧
      decode .header (windowWord s.w) = classInstr v l (fieldsOf (windowWord s.w)) ∧
      tryWindow s = .next (tryCandidate (decodeClass s.cfg v l (fieldsOf (windowWord s.w))) s)) ∨
    ((∀ v l f, decode .header (windowWord s.w) ≠ classInstr v l f) ∧ tryWindow s = .next (shiftWindow s)) := by
  rcases exec_header_cases (windowWord s.w) s with ⟨v, l, hd, he, h⟩ | ⟨hd, h⟩
  · exact .inl ⟨v, l, he, hd, h⟩
  · exact .inr ⟨hd, h⟩

/-! ### Ends and the chunk walk -/

/-- END ends any command that waits for a byte (R159, R163, R197). -/
theorem react_end (h : pendingTxn s = some .read) : ∃ k, react .eos s = .next (exhaust k s) := by
  cases hc : s.ctx <;> simp [pendingTxn, hc] at h <;>
    simp [react, hc, afterFill, afterShift, afterPayload, afterRiffHeader, afterChunkId, afterChunkSize] <;> exact ⟨_, rfl⟩

/-- Everything a complete chunk header can go on to (R195, R196, U15). -/
theorem chunkDone_cases (s : State) :
    (s.cid = dataId ∧ s.upos + 8 < 2 ^ posWidth ∧
      chunkDone s = .next { s with upos := s.upos + 8, ctx := .seekData }) ∨
    (s.cid ≠ dataId ∧ skipTarget s.cfg (s.upos + 8) (littleEndian s.csz) < 2 ^ posWidth ∧ chunkDone s =
      .next { s with upos := skipTarget s.cfg (s.upos + 8) (littleEndian s.csz), ctx := .seekSkip }) ∨
    ((s.cid = dataId ∧ 2 ^ posWidth ≤ s.upos + 8 ∨ s.cid ≠ dataId ∧
        2 ^ posWidth ≤ skipTarget s.cfg (s.upos + 8) (littleEndian s.csz)) ∧
      chunkDone s = .refused .seekTargetTooWide) := by
  unfold chunkDone
  split
  · split
    · exact .inl ⟨‹_›, ‹_›, rfl⟩
    · exact .inr (.inr ⟨.inl ⟨‹_›, by omega⟩, rfl⟩)
  · dsimp only
    split
    · exact .inr (.inl ⟨‹_›, ‹_›, rfl⟩)
    · exact .inr (.inr ⟨.inr ⟨‹_›, by omega⟩, rfl⟩)

/-! ### Steps by context: a normal answer, with a byte or to a seek -/

theorem step_fill {b : Byte} (hc : s.ctx = .fill) (hs : s.stale = []) (h : s.env = .answer .normal :: rest)
    (hb : s.src[s.cursor]? = some b) :
    step s = afterFill (.data b) { s with env := rest, cursor := s.cursor + 1 } := by
  rw [step_read_data hs h hb (by simp [pendingTxn, hc]), react_fill _ (by exact hc)]

theorem step_shift {b : Byte} (hc : s.ctx = .shift) (hs : s.stale = []) (h : s.env = .answer .normal :: rest)
    (hb : s.src[s.cursor]? = some b) :
    step s = tryWindow { s with env := rest, cursor := s.cursor + 1, w := s.w.set 3 b } := by
  rw [step_read_data hs h hb (by simp [pendingTxn, hc]), react_shift _ (by exact hc), afterShift_data]

theorem step_payload {b : Byte} (hc : s.ctx = .payload) (hp : s.pcnt < fbSize) (hs : s.stale = [])
    (h : s.env = .answer .normal :: rest) (hb : s.src[s.cursor]? = some b) :
    step s = .next (payloadLoop { s with
      env := rest, cursor := s.cursor + 1,
      fb := if s.mode = .full then Memory.write s.fb s.pcnt b else s.fb, pcnt := s.pcnt + 1 }) := by
  rw [step_read_data hs h hb (by simp [pendingTxn, hc]), react_payload _ (by exact hc), afterPayload_data _ (by exact hp)]

theorem step_rewind (hc : s.ctx = .rewind) (hs : s.stale = []) (h : s.env = .answer .normal :: rest) :
    step s = .next { s with env := rest, cursor := 0, upos := 0, ctx := .riffHeader 0 } := by
  rw [step_answer (x := .seek 0) h hs (by simp [pendingTxn, hc]), performTxn_seek, react_rewind _ (by exact hc)]; rfl

theorem step_riffHeader {b : Byte} {k : Nat} (hc : s.ctx = .riffHeader k) (hs : s.stale = [])
    (h : s.env = .answer .normal :: rest) (hb : s.src[s.cursor]? = some b) :
    step s = .next (if k + 1 < 12 then { s with env := rest, cursor := s.cursor + 1, ctx := .riffHeader (k + 1) }
      else { s with env := rest, cursor := s.cursor + 1, upos := 12, ctx := .chunkId 0 }) := by
  rw [step_read_data hs h hb (by simp [pendingTxn, hc]), react_riffHeader (k := k) _ (by exact hc)]
  simp only [afterRiffHeader, onByte_data]
  split <;> rfl

theorem step_chunkId {b : Byte} {k : Nat} (hc : s.ctx = .chunkId k) (hs : s.stale = [])
    (h : s.env = .answer .normal :: rest) (hb : s.src[s.cursor]? = some b) :
    step s = .next { s with env := rest, cursor := s.cursor + 1, cid := s.cid.set k b,
                            ctx := if k + 1 < 4 then .chunkId (k + 1) else .chunkSize 0 } := by
  rw [step_read_data hs h hb (by simp [pendingTxn, hc]), react_chunkId (k := k) _ (by exact hc)]; rfl

theorem step_chunkSize {b : Byte} {k : Nat} (hc : s.ctx = .chunkSize k) (hs : s.stale = [])
    (h : s.env = .answer .normal :: rest) (hb : s.src[s.cursor]? = some b) :
    step s = if k + 1 < 4 then .next { s with
        env := rest, cursor := s.cursor + 1, csz := s.csz.set k b, ctx := .chunkSize (k + 1) }
      else chunkDone { s with env := rest, cursor := s.cursor + 1, csz := s.csz.set k b } := by
  rw [step_read_data hs h hb (by simp [pendingTxn, hc]), react_chunkSize (k := k) _ (by exact hc)]; rfl

theorem step_seekData (hc : s.ctx = .seekData) (hs : s.stale = []) (h : s.env = .answer .normal :: rest) :
    step s = .next { s with env := rest, cursor := s.upos, wfill := 0, ctx := .fill } := by
  rw [step_answer (x := .seek s.upos) h hs (by simp [pendingTxn, hc]), performTxn_seek, react_seekData _ (by exact hc)]; rfl

theorem step_seekSkip (hc : s.ctx = .seekSkip) (hs : s.stale = []) (h : s.env = .answer .normal :: rest) :
    step s = .next { s with env := rest, cursor := s.upos, ctx := .chunkId 0 } := by
  rw [step_answer (x := .seek s.upos) h hs (by simp [pendingTxn, hc]), performTxn_seek, react_seekSkip _ (by exact hc)]; rfl

/-! ### Runs -/

@[simp] theorem run_zero (s : State) : run 0 s = .next s := rfl

theorem run_succ {t : State} (k : Nat) (h : step s = .next t) : run (k + 1) s = run k t := by
  have h : Sys2Proof.core.step s = .next t := h
  simp only [run, Host.Core.run, h]; rfl

theorem run_refused {e : Refusal} (k : Nat) (h : step s = .refused e) : run (k + 1) s = .refused e := by
  have h : Sys2Proof.core.step s = .refused e := h
  simp only [run, Host.Core.run, h]; rfl

theorem run_fault {e : Fault} (k : Nat) (h : step s = .fault e) : run (k + 1) s = .fault e := by
  have h : Sys2Proof.core.step s = .fault e := h
  simp only [run, Host.Core.run, h]; rfl

/-- A run of `a + b` steps is one of `a` and then one of `b`. -/
theorem run_add {t : State} (a b : Nat) (h : run a s = .next t) : run (a + b) s = run b t := by
  induction a generalizing s with
  | zero => rw [Nat.zero_add]; cases h; rfl
  | succ a ih =>
    rw [show a + 1 + b = a + b + 1 by omega]
    cases hs : step s with
    | next u => rw [run_succ _ hs] at h ⊢; exact ih h
    | fault e =>
      have hs : Sys2Proof.core.step s = .fault e := hs
      simp [run, Host.Core.run, hs] at h
    | refused e =>
      have hs : Sys2Proof.core.step s = .refused e := hs
      simp [run, Host.Core.run, hs] at h

end Sys2Proof.Machine
end

