-- ==== Sys2Proof/Tests/Slice0.lean ====
section
/-! SUPPORT. The model's own tests: well-formedness, decoding against words written out from the encoding tables, one-step
tests with the values of 95_test_vectors.md, and for every statement with hypotheses a witness that meets them. -/

namespace Sys2Proof.Machine

/-- The host writes `v` to CMD. -/
def State.cmd (s : State) (v : Word) : State := { s with env := [.hostWrite 0 4 v] }

/-- The source answers next. -/
def State.answer (s : State) : State := { s with env := [.answer .normal] }

end Sys2Proof.Machine

namespace Sys2Proof.Tests.Slice0

open Sys2Proof.Machine

/-! ### Well-formedness (R87, R88) -/

theorem test_wf_refuses_sync_ones : (Instr.rejectNoSync 0x7FF 0).wf = false := by decide

theorem test_wf_refuses_reserved_version_in_layer_term : (Instr.rejectReservedLayer 0b01 0).wf = false := by decide

theorem test_wf_admits : (Instr.rejectNoSync 0x7FE 0).wf = true ∧ (Instr.rejectReservedLayer 0b00 0).wf = true := by decide

/-! ### Decoding: a word of every constructor, written out from R80, R83, R84, R88 and R90 -/

/-- Fields `P BBBB SS D x CC xxxxxx` = 1 1001 01 1 0 10 000101. -/
def someFields : HdrFields := { prot := 1, bri := 9, sri := 1, pad := 1, ignA := 0, chm := 2, ignB := 5 }

theorem test_decode_v1 :
    decodeHeader 0b11111111111_11_11_1_1001_01_1_0_10_000101#32 = .hdrV1LI someFields ∧
    decodeHeader 0b11111111111_11_10_1_1001_01_1_0_10_000101#32 = .hdrV1LII someFields ∧
    decodeHeader 0b11111111111_11_01_1_1001_01_1_0_10_000101#32 = .hdrV1LIII someFields := by decide

theorem test_decode_v2 :
    decodeHeader 0b11111111111_10_11_1_1001_01_1_0_10_000101#32 = .hdrV2LI someFields ∧
    decodeHeader 0b11111111111_10_10_1_1001_01_1_0_10_000101#32 = .hdrV2LII someFields ∧
    decodeHeader 0b11111111111_10_01_1_1001_01_1_0_10_000101#32 = .hdrV2LIII someFields := by decide

theorem test_decode_v25 :
    decodeHeader 0b11111111111_00_11_1_1001_01_1_0_10_000101#32 = .hdrV25LI someFields ∧
    decodeHeader 0b11111111111_00_10_1_1001_01_1_0_10_000101#32 = .hdrV25LII someFields ∧
    decodeHeader 0b11111111111_00_01_1_1001_01_1_0_10_000101#32 = .hdrV25LIII someFields := by decide

theorem test_decode_rejects :
    decodeHeader 0b11111111110_11_01_1_1001_01_1_0_10_000101#32 =
      .rejectNoSync 0b11111111110 0b11_01_1_1001_01_1_0_10_000101 ∧
    decodeHeader 0b11111111111_01_00_1_1001_01_1_0_10_000101#32 = .rejectReservedVersion 0b00_1_1001_01_1_0_10_000101 ∧
    decodeHeader 0b11111111111_00_00_1_1001_01_1_0_10_000101#32 =
      .rejectReservedLayer 0b00 0b1_1001_01_1_0_10_000101 := by decide

theorem test_decode_commands :
    decodeCommand 0b101_000000000000000000000000000_00#32 = .nop 0b101_000000000000000000000000000 ∧
    decodeCommand 0b000_000000000000000000000000001_01#32 = .nextFrame 1 ∧
    decodeCommand 0b000_000000000000000000000000000_10#32 = .nextHeader 0 ∧
    decodeCommand 0b111_111111111111111111111111111_11#32 = .cmdReserved 0b111_111111111111111111111111111 := by decide

/-- Stream bytes, first byte most significant (R9); three bytes are no window. -/
theorem test_decodeStream :
    decodeStream [0xFF, 0xFB, 0x90, 0x64, 0x77] =
      .ok (.hdrV1LIII { prot := 1, bri := 9, sri := 0, pad := 0, ignA := 0, chm := 1, ignB := 36 }, [0x77]) ∧
    decodeStream [0xFF, 0xFB, 0x90] = .error (.incompleteWindow 3) := by decide

theorem test_decodeTableWord :
    decodeTableWord 32 0xFFE20000 = some (.hdrV25LIII { prot := 0, bri := 0, sri := 0, pad := 0, ignA := 0, chm := 0, ignB := 0 }) ∧
    decodeTableWord 32 2 = some (.nextHeader 0) := by decide

/-! ### Header decoder (95_test_vectors.md L2.1) -/

/-- The numbers of a decoded header. -/
def numbers (c : Layer1Coeff) (h : Word) : Option (Nat × Nat × Nat × Nat) :=
  (decodeUnit { layer1Coeff := c, riffPadOdd := false } h).map fun d =>
    (d.bitRate.toNat, d.sampleRate.toNat, d.sampleCount.toNat, d.frameLengthBytes.toNat)

theorem test_numbers_v1 :
    numbers .doc 0xFFFFEA00 = some (448000, 32000, 384, 2692) ∧ numbers .iso 0xFFFFEA00 = some (448000, 32000, 384, 676) ∧
    numbers .doc 0xFFFD9000 = some (160000, 44100, 1152, 522) ∧ numbers .doc 0xFFFB1480 = some (32000, 48000, 1152, 96) := by
  decide

theorem test_numbers_v2 :
    numbers .doc 0xFFF79000 = some (144000, 22050, 384, 1252) ∧ numbers .iso 0xFFF79000 = some (144000, 22050, 384, 312) ∧
    numbers .doc 0xFFF59000 = some (80000, 22050, 1152, 522) ∧ numbers .doc 0xFFF316C0 = some (8000, 24000, 576, 25) := by
  decide

theorem test_numbers_v25 :
    numbers .doc 0xFFE7EA00 = some (256000, 8000, 384, 6148) ∧ numbers .iso 0xFFE7EA00 = some (256000, 8000, 384, 1540) ∧
    numbers .doc 0xFFE5EA00 = some (160000, 8000, 1152, 2881) ∧ numbers .doc 0xFFE31000 = some (8000, 11025, 576, 52) := by
  decide

theorem test_invalid_headers :
    ([0xFEFB9064#32, 0xFFDB9064#32, 0xFFE00000#32, 0xFFEB9064#32, 0xFFF99064#32, 0xFFFBF064#32, 0xFFFB0064#32,
      0xFFFB9C64#32, 0xFFE9FC64#32, 0x52494646#32, 0xFFFFFFFF#32].all fun h => (numbers .doc h).isNone) = true := by decide

/-! ### Small states -/

/-- The 24-byte frame of `FF F3 14 C0`. -/
def frame24 : List Byte := [0xFF, 0xF3, 0x14, 0xC0] ++ List.replicate 20 0xAA

/-- Its header (95_test_vectors.md L2.1). -/
def hdr24 : Hdr where
  version := .v2
  vcode := 0b10
  layer := .iii
  lcode := 0b01
  bitRate := 8000
  sampleRate := 24000
  channelMode := .mono
  cmcode := 0b11
  crcPresent := false
  padding := false
  frameLengthBytes := 24
  sampleCount := 576
  word := 0xFFF314C0

/-- After reset with the frame as the source. -/
def idle : State := { State.reset with src := frame24 }

/-- A command whose fill has `n` bytes of the frame. -/
def filling (n : Nat) : State :=
  { idle with busy := true, ctx := .fill, wfill := n, cursor := n, w := { b0 := 0xFF, b1 := 0xF3, b2 := 0x14, b3 := 0 } }

/-- A command that waits for the last byte of a shifted window. -/
def shifting : State := { filling 3 with ctx := .shift, wfill := 4, riffChecked := true }

/-- A FULL command that has read `n` bytes of the frame. -/
def emitting (n : Nat) : State :=
  { idle with
    busy := true, phase := .emitting, ctx := .payload, riffChecked := true, wfill := 4, hdr := hdr24, pcnt := n,
    cursor := n, fb := (frame24.take n).zipIdx.map fun p => (p.2, p.1) }

/-- The frame is delivered. -/
def delivered : State :=
  { emitting 24 with busy := false, done := true, phase := .seeking, ctx := .idle, result := .frame }

/-- The terminal state. -/
def exhausted (k : ExKind) : State := idle.ended k (exhaustResult k)

/-- The walk of a RIFF stream, at `cursor` with `upos`. -/
def walking (src : List Byte) (c : Ctx) (upos cursor : Nat) : State :=
  { idle with src := src, busy := true, ctx := c, riffChecked := true, wfill := 4, upos := upos, cursor := cursor }

theorem emitting_inv : (emitting 4).Inv ∧ (emitting 23).Inv := by
  constructor <;> constructor <;>
    first | decide | exact trivial | (unfold fbHolds; decide)

theorem delivered_inv : delivered.Inv := by
  constructor <;> first | decide | exact trivial | (unfold fbHolds; decide)

theorem exhausted_inv (k : ExKind) : (exhausted k).Inv := by
  cases k <;> constructor <;>
    first | decide | exact trivial | (unfold fbHolds; decide)

theorem idle_inv : idle.Inv := by
  constructor <;> first | decide | exact trivial | (unfold fbHolds; decide)

theorem filling_inv : (filling 3).Inv := by
  constructor <;> first | decide | exact trivial | (unfold fbHolds; decide)

theorem filling_late_inv : ({ filling 0 with stale := [.read] } : State).Inv := by
  constructor <;> first | decide | exact trivial | (unfold fbHolds; decide)

theorem emitting_headerOnly_inv : ({ emitting 4 with mode := .headerOnly } : State).Inv := by
  constructor <;> first | decide | exact trivial | (unfold fbHolds; decide)

/-- The inputs still to come are no part of the invariant. -/
theorem inv_withEnv {s : State} (h : s.Inv) (es : List Event) : ({ s with env := es } : State).Inv :=
  { h with }

/-! ### One step of each instruction -/

/-- What `f` sees in the next state. -/
def seen {α : Type} (o : Out) (f : State → α) : Option α :=
  match o with
  | .next s => some (f s)
  | .fault _ | .refused _ => none

/-- A candidate of each header class in the window: the frame starts, with the length of L2.1. -/
def started (h : Word) : Option (Phase × Ctx × Nat × Nat) :=
  seen (exec (decode .header h) shifting) fun s => (s.phase, s.ctx, s.pcnt, s.hdr.frameLengthBytes.toNat)

theorem test_exec_v1 :
    started 0xFFFF1000 = some (.emitting, .payload, 4, 136) ∧ started 0xFFFDE800 = some (.emitting, .payload, 4, 1728) ∧
    started 0xFFFB9264 = some (.emitting, .payload, 4, 418) := by decide

theorem test_exec_v2 :
    started 0xFFF7E800 = some (.emitting, .payload, 4, 3072) ∧ started 0xFFF59000 = some (.emitting, .payload, 4, 522) ∧
    started 0xFFF39064 = some (.emitting, .payload, 4, 261) := by decide

theorem test_exec_v25 :
    started 0xFFE71400 = some (.emitting, .payload, 4, 512) ∧ started 0xFFE51400 = some (.emitting, .payload, 4, 96) ∧
    started 0xFFE31800 = some (.emitting, .payload, 4, 72) := by decide

/-- R158: the rejected window moves down one byte. -/
theorem test_exec_rejects :
    seen (exec (.rejectNoSync 0 0) shifting) (fun s => (s.w.b0, s.w.b1, s.ctx)) = some (0xF3, 0x14, .shift) ∧
    seen (exec (.rejectReservedVersion 0) shifting) (fun s => (s.w.b0, s.w.b1, s.ctx)) = some (0xF3, 0x14, .shift) ∧
    seen (exec (.rejectReservedLayer 3 0) shifting) (fun s => (s.w.b0, s.w.b1, s.ctx)) = some (0xF3, 0x14, .shift) := by
  decide

/-- The last byte of `FF F3 14 C0` arrives: the latch of L2.1, the copy of R161. -/
theorem test_step_latches :
    seen (step shifting.answer) (fun s => (s.hdr, s.cursor, s.fb)) =
      some (hdr24, 4, [(0, 0xFF), (1, 0xF3), (2, 0x14), (3, 0xC0)]) := by decide

/-- S14, S7, P4: STATUS while the command runs (R42: BUSY, MODEHDR). -/
theorem test_step_commands :
    seen (step (idle.cmd 1)) statusWord = some 0x001 ∧ seen (step (idle.cmd 2)) statusWord = some 0x101 ∧
    seen (step (idle.cmd 0)) statusWord = some 0x000 ∧ seen (step (idle.cmd 3)) statusWord = some 0x000 := by decide

/-- S6, S3: the frame delivered, and the repeated terminal code. -/
theorem test_status_results :
    seen (step (emitting 23).answer) statusWord = some 0x086 ∧
    seen (step ((exhausted .clean).cmd 1)) statusWord = some 0x04A ∧
    seen (step ((exhausted .truncated).cmd 2)) statusWord = some 0x14E ∧
    seen (step { emitting 9 with env := [.answer .error] }) (fun s => (statusWord s, s.cursor)) = some (0x0D6, 9) := by
  decide

/-- P1: the registers of the 24-byte frame. -/
theorem test_result_registers :
    (readRegister delivered 0x08, readRegister delivered 0x0C) = (some 0xFFF314C0, some 0x00000036) ∧
    (readRegister delivered 0x10, readRegister delivered 0x14) = (some 8000, some 24000) ∧
    (readRegister delivered 0x18, readRegister delivered 0x1C) = (some 24, some 576) ∧
    (readFb delivered 3, readFb delivered 23, readFb delivered 24) = (some 0xC0, some 0xAA, none) := by decide

/-- U12, U5, U6: the skip targets. -/
theorem test_skip_targets :
    skipTarget Config.default 20 (littleEndian { b0 := 0xFF, b1 := 0xFF, b2 := 0xFF, b3 := 0x7F }) = 2147483667 ∧
    skipTarget Config.default 20 3 = 23 ∧ skipTarget { Config.default with riffPadOdd := true } 20 3 = 24 := by decide

/-- `withFetchWord` makes the next step run the word, from reset. -/
theorem test_withFetchWord :
    seen (step (State.reset.withFetchWord 32 0xFFFB9064)) (fun s => (s.phase, s.hdr.word, s.hdr.frameLengthBytes.toNat)) =
      some (.emitting, 0xFFFB9064, 417) ∧
    seen (step (State.reset.withFetchWord 32 0xFFE80000)) (fun s => (s.ctx, s.w.b0, s.w.b1)) = some (.shift, 0xE8, 0x00) ∧
    seen (step (State.reset.withFetchWord 32 1)) statusWord = some 1 := by decide

/-! ### Witnesses: states and operands that meet the hypotheses of each statement -/

theorem witness_DecodeOfEncodeIsIdentity :
    (Instr.rejectNoSync 0x7FE 0x1FFFFF).wf = true ∧ (Instr.rejectReservedLayer 3 0).wf = true ∧
    (Instr.cmdReserved 0).wf = true := by decide

/-- "RIFF" is of no header class. -/
theorem riff_is_no_class (v : Version) (l : Layer) (f : HdrFields) : decodeHeader 0x52494646#32 ≠ classInstr v l f := by
  rw [show decodeHeader 0x52494646#32 = .rejectNoSync 0x292 0x94646 by decide]
  exact fun h => (classInstr_ne_reject v l f).1 _ _ h.symm

theorem witness_HeaderClassesByMaskAndMatch :
    decodeHeader 0xFFF314C0#32 = classInstr .v2 .iii (fieldsOf 0xFFF314C0#32) ∧
    ∀ v l f, decodeHeader 0x52494646#32 ≠ classInstr v l f := ⟨by decide, riff_is_no_class⟩

theorem witness_DecoderUnitAgreesWithTheClasses :
    decodeHeader 0xFFE7EA00#32 = classInstr .v25 .i (fieldsOf 0xFFE7EA00#32) ∧
    ∀ v l f, decodeHeader 0x52494646#32 ≠ classInstr v l f := ⟨by decide, riff_is_no_class⟩

theorem witness_IgnoredHeaderBitsChangeOnlyTheWord :
    0xFFFB9064#32 &&& 0xFFFFFEC0#32 = 0xFFFB917F#32 &&& 0xFFFFFEC0#32 ∧ 0xFFFB9064#32 ≠ 0xFFFB917F#32 := by decide

theorem witness_DecodedFieldsFollowTheTables :
    decodeClass Config.default .v2 .iii (fieldsOf 0xFFF314C0#32) = some hdr24 ∧
    (decodeClass { Config.default with layer1Coeff := .iso } .v1 .i (fieldsOf 0xFFFFEA00#32)).isSome = true := by decide

theorem witness_ValidHeadersMeetTheFrameInvariants : decodeUnit Config.default 0xFFF314C0 = some hdr24 := by decide

theorem witness_FrameLengthRange :
    decodeUnit Config.default 0xFFF314C0 = some hdr24 ∧
    decodeUnit { Config.default with layer1Coeff := .iso } 0xFFF314C0 = some hdr24 := by decide

theorem witness_FrameLengthArithmeticFits :
    romBr .v1 .ii 14 = some 384 ∧ romSr .v25 2 = some 8000 ∧ romBr .v1 .i 14 = some 448 ∧ romBr .v1 .i 0 = some 0 := by
  decide

theorem witness_ValidHeaderIsLatchedAndCopied :
    (1#4 ≠ 0#4 ∧ 1#4 ≠ 15#4 ∧ 0#2 ≠ 3#2) ∧ (14#4 ≠ 0#4 ∧ 14#4 ≠ 15#4 ∧ 2#2 ≠ 3#2) ∧
    shifting.mode = .full ∧ ({ shifting with mode := .headerOnly } : State).mode = .headerOnly := by decide

theorem witness_InvalidHeaderShiftsTheWindow :
    (fieldsOf 0xFFFB0064#32).bri = 0#4 ∧ (fieldsOf 0xFFFBF064#32).bri = 15#4 ∧ (fieldsOf 0xFFFB9C64#32).sri = 3#2 := by
  decide

theorem witness_NopAndReservedChangeNothing :
    (idle.cmd 0xFFFFFFFC).env = [.hostWrite 0 4 0xFFFFFFFC] ∧ (0xFFFFFFFC#32).extractLsb' 0 2 = 0b00#2 ∧
    ((filling 3).cmd 3).env = [.hostWrite 0 4 3] ∧ (3#32).extractLsb' 0 2 = 0b11#2 := by decide

theorem witness_NextCommandsAreAccepted :
    idle.ready ∧ delivered.ready ∧ delivered.cursor ≠ 0 := by unfold State.ready; decide

theorem witness_CommandWhileBusyIsIgnored :
    ((filling 3).cmd 1).busy = true ∧ ((filling 3).cmd 1).env = [.hostWrite 0 4 1] := by decide

theorem witness_ExhaustedCommandRepeatsItsCode (k : ExKind) :
    (exhausted k).busy = false ∧ (exhausted k).phase = .exhausted ∧ (exhausted k).exkind = some k := ⟨rfl, rfl, rfl⟩

theorem witness_FirstCommandNeedsTheStreamStart :
    let s : State := { idle with cursor := 1 }
    s.busy = false ∧ s.phase = .seeking ∧ s.result = .none ∧ s.cursor ≠ 0 := by decide

theorem witness_StepRunsTheWrittenCommand :
    (idle.cmd 1).env = [.hostWrite 0 4 1] ∧ decode .command 1 = .nextFrame 0 := by decide

/-- Both clauses; the fill one with the check behind and with the check to come. -/
theorem witness_StepRunsTheCompletedWindow :
    decode .header (headerWord 0xFF 0xF3 0x14 0xC0) = .hdrV2LIII (fieldsOf 0xFFF314C0#32) ∧
    (∀ s ∈ [shifting.answer, (filling 3).answer, ({ filling 3 with riffChecked := true } : State).answer],
      s.stale = [] ∧ s.env = [.answer .normal] ∧ s.src[s.cursor]? = some 0xC0 ∧
      headerWord s.w.b0 s.w.b1 s.w.b2 0xC0 = headerWord 0xFF 0xF3 0x14 0xC0) ∧
    shifting.answer.ctx = .shift ∧ (filling 3).answer.ctx = .fill ∧ (filling 3).answer.wfill = 3 ∧
    headerWord 0xFF 0xF3 0x14 0xC0 ≠ 0x52494646#32 := by decide

theorem witness_FillTakesOneByte :
    ∀ n ∈ [0, 1, 2], (filling n).answer.ctx = .fill ∧ (filling n).answer.wfill = n ∧ n < 3 ∧
      (filling n).answer.stale = [] ∧ (filling n).answer.env = [.answer .normal] ∧
      ((filling n).answer.src[(filling n).answer.cursor]?).isSome = true := by decide

theorem witness_RiffSignatureStartsTheUnwrapper :
    let s : State := { (filling 3).answer with src := [0x52, 0x49, 0x46, 0x46], w := { b0 := 0x52, b1 := 0x49, b2 := 0x46, b3 := 0 } }
    s.ctx = .fill ∧ s.wfill = 3 ∧ s.riffChecked = false ∧ s.stale = [] ∧ s.env = [.answer .normal] ∧
    s.src[s.cursor]? = some 0x46 ∧ headerWord s.w.b0 s.w.b1 s.w.b2 0x46 = 0x52494646#32 := by decide

theorem witness_EndWhileSeekingIsClean :
    ∀ s ∈ [({ (filling 3).answer with src := frame24.take 3 } : State), { shifting.answer with src := frame24.take 3 }],
      (s.ctx = .fill ∨ s.ctx = .shift) ∧ s.stale = [] ∧ s.env = [.answer .normal] ∧ s.src.length ≤ s.cursor := by decide

theorem witness_EndInPayloadIsTruncated :
    let s : State := { (emitting 23).answer with src := frame24.take 23 }
    s.ctx = .payload ∧ s.stale = [] ∧ s.env = [.answer .normal] ∧ s.src.length ≤ s.cursor := by decide

theorem witness_AnyErrorEndsInSourceError :
    ∀ c ∈ [Ctx.fill, .shift, .payload, .rewind, .riffHeader 11, .chunkId 3, .chunkSize 0, .seekData, .seekSkip],
      let s : State := { walking [] c 12 12 with env := [.answer .error] }
      s.ctx ≠ .idle ∧ s.stale = [] ∧ s.env = [.answer .error] := by decide

theorem witness_EndInUnwrapperIsFormatError :
    ∀ c ∈ [Ctx.riffHeader 2, .chunkId 2, .chunkSize 2],
      let s : State := (walking [0, 0] c 0 2).answer
      (s.ctx = .riffHeader 2 ∨ s.ctx = .chunkId 2 ∨ s.ctx = .chunkSize 2) ∧ s.stale = [] ∧
      s.env = [.answer .normal] ∧ s.src.length ≤ s.cursor := by decide

theorem witness_PayloadByteIsStored :
    ∀ s ∈ [(emitting 4).answer, (emitting 22).answer, { (emitting 22).answer with mode := .headerOnly }],
      s.ctx = .payload ∧ s.pcnt < maxFrameLen ∧ s.pcnt + 1 < s.hdr.frameLengthBytes.toNat ∧ s.stale = [] ∧
      s.env = [.answer .normal] ∧ s.src[s.cursor]? = some 0xAA := by decide

theorem witness_LastPayloadByteDeliversTheFrame :
    ∀ s ∈ [(emitting 23).answer, { (emitting 23).answer with mode := .headerOnly }],
      s.ctx = .payload ∧ s.pcnt < maxFrameLen ∧ s.pcnt + 1 = s.hdr.frameLengthBytes.toNat ∧ s.stale = [] ∧
      s.env = [.answer .normal] ∧ s.src[s.cursor]? = some 0xAA := by decide

theorem witness_RiffHeaderIsReadAndDiscarded :
    let s : State := { walking (List.replicate 12 0x20) .rewind 0 4 with env := answers 13 ++ [.rst] }
    s.ctx = .rewind ∧ s.stale = [] ∧ s.env = answers 13 ++ [.rst] ∧ 12 ≤ s.src.length := by decide

/-- A chunk header with identifier `a a a a` or "data" behind `n` bytes, the walk standing at it. -/
def atChunk (n : Nat) (id : Quad) (z : Byte) : State :=
  { walking (List.replicate n 0 ++ (id.bytes ++ [z, 0, 0, 0])) (.chunkId 0) n n with env := answers 9 }

theorem atChunk_reads (n : Nat) (id : Quad) (z : Byte) :
    (atChunk n id z).ctx = .chunkId 0 ∧ (atChunk n id z).stale = [] ∧ (atChunk n id z).env = answers 9 ++ [] ∧
    (atChunk n id z).cursor = (atChunk n id z).upos ∧
    ∀ k, (atChunk n id z).src[(atChunk n id z).upos + k]? = (id.bytes ++ [z, 0, 0, 0])[k]? := by
  refine ⟨rfl, rfl, rfl, rfl, fun k => ?_⟩
  show (List.replicate n (0 : Byte) ++ (id.bytes ++ [z, 0, 0, 0]))[n + k]? = _
  rw [List.getElem?_append_right (by simp)]
  simp

/-- All four clauses at their boundaries: "data" with `upos + 8` the last and the first target that does and does not fit;
another chunk with an odd size whose target does and does not fit. `atChunk_reads` gives the bytes read. -/
theorem witness_ChunkIsSkippedOrFound :
    (∀ n id z, (atChunk n id z).upos = n ∧ (atChunk n id z).cfg.riffPadOdd = false) ∧
    2 ^ 64 - 9 + 8 < 2 ^ 64 ∧ 2 ^ 64 ≤ 2 ^ 64 - 8 + 8 ∧
    dataId.bytes = [0x64#8, 0x61#8, 0x74#8, 0x61#8] ∧ Quad.zero.bytes ≠ [0x64#8, 0x61#8, 0x74#8, 0x61#8] ∧
    2 ^ 64 - 12 + 8 + 3 < 2 ^ 64 ∧ 2 ^ 64 ≤ 2 ^ 64 - 11 + 8 + 3 ∧ littleEndian { b0 := 3, b1 := 0, b2 := 0, b3 := 0 } = 3 :=
  ⟨fun _ _ _ => ⟨rfl, rfl⟩, by decide⟩

theorem witness_UnwrapReachesTheDataContent :
    let k : Chunk := { id := { b0 := 0x66, b1 := 0x6D, b2 := 0x74, b3 := 0x20 }, size := { b0 := 3, b1 := 0, b2 := 0, b3 := 0 },
                       body := [1, 2, 3] }
    (List.replicate 8 (0 : Byte)).length = 8 ∧
    (∀ j ∈ [k], j.id ≠ dataId ∧ j.body.length = skipTarget Config.default 0 (littleEndian j.size)) ∧
    (envelope (List.replicate 8 0) [k] Quad.zero ++ frame24).length < 2 ^ 63 := by decide

theorem witness_RiffCheckedIsClearedOnlyByReset :
    shifting.answer.env = [.answer .normal] ∧ Event.answer .normal ≠ .rst ∧ (∃ t, step shifting.answer = .next t) ∧
    shifting.answer.riffChecked = true := ⟨rfl, by decide, ⟨_, rfl⟩, rfl⟩

theorem witness_OnlyResetLeavesExhausted :
    ∃ t, ((exhausted .truncated).cmd 1).Inv ∧ ((exhausted .truncated).cmd 1).phase = .exhausted ∧
      Event.hostWrite 0 4 1 ≠ .rst ∧ step ((exhausted .truncated).cmd 1) = .next t :=
  ⟨_, inv_withEnv (exhausted_inv _) _, rfl, by decide, rfl⟩

/-- Each of the three ways. -/
theorem witness_OnlyAcceptanceAndCompletionWriteBusyAndDone :
    (∃ t, (idle.cmd 1).Inv ∧ step (idle.cmd 1) = .next t ∧ t.busy ≠ (idle.cmd 1).busy) ∧
    (∃ t, (emitting 23).answer.Inv ∧ step (emitting 23).answer = .next t ∧ t.done ≠ (emitting 23).answer.done) ∧
    (∃ t, ({ delivered with env := [.rst] } : State).Inv ∧ step { delivered with env := [.rst] } = .next t ∧
      t.done ≠ delivered.done) :=
  ⟨⟨_, inv_withEnv idle_inv _, rfl, by decide⟩, ⟨_, inv_withEnv emitting_inv.2 _, rfl, by decide⟩,
   ⟨_, inv_withEnv delivered_inv _, rfl, by decide⟩⟩

theorem witness_CursorMovesOnlyAsTheSourceSays :
    (∃ t, step (filling 2).answer = .next t ∧ t.cursor = (filling 2).answer.cursor + 1) ∧
    (∃ t, step (walking [] .seekSkip 20 12).answer = .next t ∧ t.cursor = 20) ∧
    (∀ bs, Event.answer .normal ≠ .bind bs) := ⟨⟨_, rfl, rfl⟩, ⟨_, rfl, rfl⟩, fun _ => by simp⟩

theorem witness_CommandWaitsForItsResponse :
    idle.env = [] ∧ ∃ t, ((filling 3).cmd 1).busy = true ∧ Event.hostWrite 0 4 1 ≠ .rst ∧
      (∀ d, Event.hostWrite 0 4 1 ≠ .answer d) ∧ step ((filling 3).cmd 1) = .next t :=
  ⟨rfl, _, rfl, by decide, fun _ => by simp, rfl⟩

/-- A late answer, a host read, and a NOP. -/
theorem witness_IdleBlockKeepsItsState :
    (∃ t, step { delivered with stale := [.read], env := [.answer .normal] } = .next t) ∧
    (∃ t, step { delivered with env := [.hostRead 0x10000 1] } = .next t) ∧
    (∃ t, step (delivered.cmd 4) = .next t) ∧ delivered.busy = false ∧ delivered.ctx = .idle ∧
    (4#32).extractLsb' 0 2 = 0b00#2 := ⟨⟨_, rfl⟩, ⟨_, rfl⟩, ⟨_, rfl⟩, rfl, rfl, by decide⟩

theorem witness_HeaderOnlyModeDiffersOnlyInFb :
    (delivered.Inv ∧ delivered.result ≠ .none) ∧ (idle.Inv ∧ idle.cursor = 0) ∧
    ((emitting 4).answer.Inv ∧ ({ emitting 4 with mode := .headerOnly } : State).answer.Inv ∧
      sameButFb (emitting 4).answer ({ emitting 4 with mode := .headerOnly } : State).answer ∧
      (emitting 4).answer.env = [.answer .normal] ∧ ∃ t, step (emitting 4).answer = .next t) :=
  ⟨⟨delivered_inv, by decide⟩, ⟨idle_inv, rfl⟩,
   inv_withEnv emitting_inv.1 _, inv_withEnv emitting_headerOnly_inv _, rfl, rfl, _, rfl⟩

theorem witness_InvariantHoldsAfterReset : frame24.length < 2 ^ 63 := by decide

theorem witness_EveryStepKeepsTheInvariant :
    ∃ t, (emitting 4).answer.Inv ∧ step (emitting 4).answer = .next t := ⟨_, inv_withEnv emitting_inv.1 _, rfl⟩

theorem witness_EveryResponseHasANextState :
    (filling 3).answer.Inv ∧ (filling 3).answer.env = [.answer .normal] := ⟨inv_withEnv filling_inv _, rfl⟩

/-- The source holds the frame and not a byte more, before the first command; and behind a delivered frame. -/
theorem witness_NextFrameRoundTrip :
    idle.ready ∧ idle.stale = [] ∧ headerAt idle.src idle.cursor = some 0xFFF314C0 ∧
    decodeUnit idle.cfg 0xFFF314C0 = some hdr24 ∧ idle.cursor + hdr24.frameLengthBytes.toNat ≤ idle.src.length ∧
    ({ delivered with src := frame24 ++ frame24 } : State).ready ∧
    headerAt (frame24 ++ frame24) delivered.cursor = some 0xFFF314C0 := by unfold State.ready; decide

theorem witness_ResynchronizationFindsTheSameFrame :
    headerAt frame24 0 = some 0xFFF314C0 ∧ decodeUnit Config.default 0xFFF314C0 = some hdr24 ∧
    hdr24.frameLengthBytes.toNat ≤ frame24.length ∧
    (∀ i v, i < [0xFF#8].length → headerAt ([0xFF#8] ++ frame24) i = some v → decodeUnit Config.default v = none) ∧
    headerAt ([0xFF#8] ++ frame24) 0 ≠ some 0x52494646#32 := by
  refine ⟨by decide, by decide, by decide, fun i v hi h => ?_, by decide⟩
  obtain rfl : i = 0 := by simpa using hi
  obtain rfl : v = 0xFFFFF314#32 := by
    rw [show headerAt ([0xFF#8] ++ frame24) 0 = some 0xFFFFF314#32 by decide] at h
    exact (Option.some.inj h).symm
  decide

/-- With no late response outstanding, and with one. -/
theorem witness_AnsweredCommandCompletes :
    ((filling 3).Inv ∧ (filling 3).busy = true) ∧ ({ filling 0 with stale := [.read] } : State).Inv ∧
    ({ filling 0 with stale := [.read] } : State).busy = true := ⟨⟨filling_inv, rfl⟩, filling_late_inv, rfl⟩

theorem witness_EnvelopeIsInvisibleAfterTheUnwrap :
    shiftedBy [0x52, 0x49] { shifting with src := [0x52, 0x49] ++ frame24, cursor := 5 } shifting ∧
    Event.answer .normal ≠ .rst ∧ ∀ bs, Event.answer .normal ≠ .bind bs :=
  ⟨⟨rfl, rfl, rfl, rfl, .inl rfl⟩, by decide, fun _ => by simp⟩

theorem witness_StatusRegisterLayout :
    ({ filling 3 with env := [.hostRead 0x04 4] } : State).env = [.hostRead 0x04 4] ∧
    ({ filling 3 with env := [.hostWrite 0x04 4 7] } : State).env = [.hostWrite 0x04 4 7] := ⟨rfl, rfl⟩

theorem witness_ResultRegistersAreReadableExactlyAfterAFrame :
    (delivered.done = true ∧ delivered.busy = false ∧ delivered.result = .frame) ∧
    (∀ o ∈ [0x08, 0x0C, 0x10, 0x14, 0x18, 0x1C], ({ delivered with env := [.hostRead o 4] } : State).env = [.hostRead o 4]) ∧
    ¬ ((emitting 23).done = true ∧ (emitting 23).busy = false ∧ (emitting 23).result = .frame) := by decide

/-- The first and the last byte of the frame; the byte after it, the last of FB, and byte 0 after a HEADER_ONLY command. -/
theorem witness_FrameBufferIsReadableExactlyAfterAFullFrame :
    ({ delivered with env := [.hostRead (0x10000 + 23) 1] } : State).Inv ∧
    (∀ i ∈ [0, 23], delivered.done = true ∧ delivered.busy = false ∧ delivered.result = .frame ∧
      delivered.mode = .full ∧ i < delivered.hdr.frameLengthBytes.toNat) ∧
    (∀ i ∈ [24, 16383], i < 16384 ∧ ¬ i < delivered.hdr.frameLengthBytes.toNat) ∧
    ¬ ({ delivered with mode := .headerOnly } : State).mode = .full :=
  ⟨inv_withEnv delivered_inv _, by decide⟩

theorem witness_UnmappedReadsZeroAndOtherWritesAreIgnored :
    (∀ o ∈ [0, 0x20, 0xFFFC, 0x14000], o % 4 = 0 ∧ (o < 0x10000 ∨ 0x14000 ≤ o) ∧ (o = 0 ∨ 0x20 ≤ o)) ∧
    (0x08 % 4 = 0 ∧ 0x08 < 0x10000 ∧ 0x08 ≠ 0) ∧ (0 < 16384 ∧ 16383 < 16384) := by decide

theorem witness_BadHostAccessFaults :
    (∀ p ∈ [(0x04, 2), (0x05, 4), (0xFFFF, 1), (0x14000, 1), (0x10000, 4), (0x13FFF, 2)],
      ((p.1 < 0x10000 ∨ 0x14000 ≤ p.1) ∧ (p.2 ≠ 4 ∨ p.1 % 4 ≠ 0)) ∨ (0x10000 ≤ p.1 ∧ p.1 < 0x14000 ∧ p.2 ≠ 1)) := by decide

theorem witness_HostReadsHaveNoSideEffect :
    ∃ t, step { delivered with env := [.hostRead 0x18 4] } = .next t ∧ t.rdata = 24 := ⟨_, rfl, by decide⟩

theorem witness_ResetRestoresTheBlock : ({ emitting 4 with env := [.rst] } : State).env = [.rst] := rfl

theorem witness_LateResponseIsDiscarded :
    let s : State := { idle with stale := [.read, .seek 0], env := [.answer .error] }
    s.stale = [.read, .seek 0] ∧ s.env = [.answer .error] := ⟨rfl, rfl⟩

theorem witness_SourceIsBoundOnlyBeforeTheFirstCommand :
    (idle.busy = false ∧ idle.result = .none ∧ frame24.length < 2 ^ 63) ∧ (filling 3).busy = true ∧
    delivered.result ≠ .none := by decide

end Sys2Proof.Tests.Slice0
end

/-! # The state family (10_state.md)

What one step can change, the invariant of the machine, and the registers as the host reads them. -/

namespace Sys2Proof.Machine

variable {s t : State}

/-! ### Next states of an outcome -/

/-- Every next state the outcome holds meets `P`; a stop holds none. -/
def allNext (P : State → Prop) (o : Out) : Prop := ∀ t, o = .next t → P t

section
variable {P : State → Prop}

@[simp] theorem allNext_next : allNext P (.next s) ↔ P s :=
  ⟨fun h => h s rfl, fun h t e => by cases e; exact h⟩

@[simp] theorem allNext_fault (e : Fault) : allNext P (.fault e) := fun _ h => by cases h

@[simp] theorem allNext_refused (e : Refusal) : allNext P (.refused e) := fun _ h => by cases h

theorem allNext_onByte (r : Response) (k : ExKind) {go : Byte → State → Out} (hend : ∀ k, P (exhaust k s))
    (hgo : ∀ b, allNext P (go b s)) : allNext P (onByte r k s go) := by
  cases r with
  | data b => exact hgo b
  | eos | ok | error => exact allNext_next.2 (hend _)

theorem allNext_onSeek (r : Response) {go : State → Out} (hend : P (exhaust .sourceError s)) (hgo : allNext P (go s)) :
    allNext P (onSeek r s go) := by
  cases r with
  | error => exact allNext_next.2 hend
  | data _ | eos | ok => exact hgo

theorem allNext_mono {Q : State → Prop} {o : Out} (hPQ : ∀ t, P t → Q t) (h : allNext P o) : allNext Q o :=
  fun t e => hPQ t (h t e)

end

/-! ### What one input can lead to -/

/-- The next states of an accepted command: complete at once in EXHAUSTED (R154), else FILL4 begins (R150, R155). -/
theorem acceptCommand_next {m : Mode} (hb : s.busy = false) (e : acceptCommand m s = .next t) :
    (∃ k, s.exkind = some k ∧ t = complete (exhaustResult k) { s with busy := true, done := false, mode := m }) ∨
    (s.phase ≠ .exhausted ∧ t = startFill { s with busy := true, done := false, mode := m }) := by
  rcases acceptCommand_cases m hb with ⟨k, _, hk, h⟩ | ⟨_, _, h⟩ | ⟨hp, _, h⟩ | ⟨_, _, _, h⟩ <;> rw [h] at e <;> cases e
  · exact .inl ⟨k, hk, rfl⟩
  · exact .inr ⟨hp, rfl⟩

/-- A host write leaves the state as it was, but for a command written to CMD while not busy (R41, R150). -/
theorem hostWrite_next {o n : Nat} {v : Word} (e : hostWrite o n v s = .next t) :
    t = s ∨ (o = 0 ∧ n = 4 ∧ s.busy = false ∧ (v.extractLsb' 0 2 = 0b01#2 ∨ v.extractLsb' 0 2 = 0b10#2) ∧
      ∃ m, acceptCommand m s = .next t) := by
  rcases hostWrite_cases o n v s with ⟨ho, hn, h⟩ | ⟨_, h⟩ | ⟨_, h⟩ <;> rw [h] at e
  · cases hb : s.busy with
    | true =>
      rcases exec_command_cases v s with ⟨_, h⟩ | ⟨_, h⟩ | ⟨_, h⟩ <;> simp [h, hb] at e <;> exact .inl e.symm
    | false =>
      rcases exec_command_cases v s with ⟨_, h⟩ | ⟨hc, h⟩ | ⟨hc, h⟩ <;> rw [h] at e
      · cases e; exact .inl rfl
      · exact .inr ⟨ho, hn, rfl, .inl hc, _, e⟩
      · exact .inr ⟨ho, hn, rfl, .inr hc, _, e⟩
  · cases e; exact .inl rfl
  · cases e

/-- A host read that answers changes `rdata` and nothing else (R40). -/
theorem hostRead_next {o n : Nat} (e : hostRead o n s = .next t) : ∃ v, t = { s with rdata := v } := by
  rcases hostRead_cases o n s with ⟨v, h⟩ | ⟨_, h⟩ <;> rw [h] at e <;> cases e
  exact ⟨v, rfl⟩

/-- A source is bound to an idle block at position 0, and to no other (R232, R233). -/
theorem bindSource_next {bs : List Byte} (e : bindSource bs s = .next t) :
    s.busy = false ∧ bs.length < 2 ^ 63 ∧ t = { s with src := bs, cursor := 0, stale := [] } := by
  rcases bindSource_cases bs s with ⟨hb, _, hl, h⟩ | ⟨_, h⟩ | ⟨_, h⟩ <;> rw [h] at e <;> cases e
  exact ⟨hb, hl, rfl⟩

/-- An answer of the source goes to a transaction a reset abandoned, to nobody, or to the command in progress (R230, R221,
R172). -/
theorem sourceAnswers_cases (d : Draw) (s : State) :
    (∃ x xs, s.stale = x :: xs ∧ sourceAnswers d s = .next (performTxn x d { s with stale := xs }).2) ∨
    (s.stale = [] ∧ pendingTxn s = none ∧ sourceAnswers d s = .next s) ∨
    (s.stale = [] ∧ ∃ x, pendingTxn s = some x ∧
      sourceAnswers d s = react (performTxn x d s).1 (performTxn x d s).2) := by
  cases hs : s.stale with
  | cons x xs => exact .inl ⟨x, xs, rfl, by simp [sourceAnswers, hs]⟩
  | nil =>
    cases hx : pendingTxn s with
    | none => exact .inr (.inl ⟨rfl, rfl, by simp [sourceAnswers, hs, hx]⟩)
    | some x => exact .inr (.inr ⟨rfl, x, rfl, sourceAnswers_pending d hs hx⟩)

/-- What an input that is taken leads to, by the kind of its effect. -/
inductive Takes (s : State) : Event → State → Prop
  /-- A host read, a host write without effect, or an answer nobody waits for. -/
  | unchanged (e : Event) (v : Word) : Takes s e { s with rdata := v }
  | accept {v : Word} {m : Mode} {t : State} : s.busy = false →
      (v.extractLsb' 0 2 = 0b01#2 ∨ v.extractLsb' 0 2 = 0b10#2) → acceptCommand m s = .next t →
      Takes s (.hostWrite 0 4 v) t
  | reset : Takes s .rst (hardReset s)
  /-- The answer to a transaction a reset abandoned. -/
  | late {x : Txn} {xs : List Txn} (d : Draw) : s.stale = x :: xs →
      Takes s (.answer d) (performTxn x d { s with stale := xs }).2
  /-- The answer to the transaction the command in progress waits for. -/
  | response {x : Txn} {d : Draw} {t : State} : s.stale = [] → pendingTxn s = some x →
      react (performTxn x d s).1 (performTxn x d s).2 = .next t → Takes s (.answer d) t
  | bound {bs : List Byte} : s.busy = false → bs.length < 2 ^ 63 →
      Takes s (.bind bs) { s with src := bs, cursor := 0, stale := [] }

/-- Everything an input that has a next state can do. -/
theorem takes_of_next {e : Event} (h : takeEvent e s = .next t) : Takes s e t := by
  cases e with
  | hostWrite o n v =>
    rcases hostWrite_next h with rfl | ⟨rfl, rfl, hb, hc, m, ha⟩
    · exact .unchanged _ t.rdata
    · exact .accept hb hc ha
  | hostRead o n =>
    obtain ⟨v, rfl⟩ := hostRead_next h
    exact .unchanged _ v
  | rst =>
    cases h
    exact .reset
  | answer d =>
    have h : sourceAnswers d s = .next t := h
    rcases sourceAnswers_cases d s with ⟨x, xs, hs, e⟩ | ⟨_, _, e⟩ | ⟨hs, x, hx, e⟩ <;> rw [e] at h
    · cases h
      exact .late d hs
    · cases h
      exact .unchanged _ s.rdata
    · exact .response hs hx h
  | bind bs =>
    obtain ⟨hb, hl, rfl⟩ := bindSource_next h
    exact .bound hb hl

/-- Everything a step that has a next state can do. -/
theorem step_next (h : step s = .next t) :
    t = s ∨ ∃ e rest, s.env = e :: rest ∧ Takes { s with env := rest } e t := by
  cases hs : s.env with
  | nil =>
    rw [step_idle hs] at h
    cases h
    exact .inl rfl
  | cons e rest =>
    rw [step_event hs] at h
    exact .inr ⟨e, rest, rfl, takes_of_next h⟩

theorem takes_of_step {e : Event} {rest : List Event} (hs : s.env = e :: rest) (h : step s = .next t) :
    Takes { s with env := rest } e t := takes_of_next ((step_event hs).symm.trans h)

/-- The response the command in progress waits for: a byte, the end of a seek, or the end of the command (R61, R62, R167). -/
theorem react_performTxn_cases (d : Draw) {x : Txn} (hx : pendingTxn s = some x) :
    (∃ k, react (performTxn x d s).1 (performTxn x d s).2 = .next (exhaust k s)) ∨
    (x = .read ∧ ∃ b,
      react (performTxn x d s).1 (performTxn x d s).2 = react (.data b) { s with cursor := s.cursor + 1 }) ∨
    (∃ p, x = .seek p ∧ react (performTxn x d s).1 (performTxn x d s).2 = react .ok { s with cursor := p }) := by
  have hc : s.ctx ≠ .idle := fun h => by simp [pendingTxn, h] at hx
  cases x with
  | read =>
    rcases performTxn_read_cases d s with ⟨b, _, _, h⟩ | ⟨_, _, h⟩ | ⟨_, h⟩ <;> rw [h]
    · exact .inr (.inl ⟨rfl, b, rfl⟩)
    · exact .inl (react_end hx)
    · exact .inl ⟨_, react_error hc⟩
  | seek p =>
    cases d with
    | normal => exact .inr (.inr ⟨p, rfl, rfl⟩)
    | error => exact .inl ⟨_, react_error hc⟩

/-! ### The decoder on the word of a class -/

/-- The decoder unit on the word of a class computes what the class decodes to (R109). -/
theorem decodeUnit_encodeClass (c : Config) (v : Version) (l : Layer) (f : HdrFields) :
    decodeUnit c (encodeClass v l f) = decodeClass c v l f := by
  have hsync : decSync (encodeClass v l f) = true := by simp [decSync]
  have hf := fieldsOf_encodeClass v l f
  have hbri : (encodeClass v l f).extractLsb' 12 4 = f.bri := congrArg HdrFields.bri hf
  have hsri : (encodeClass v l f).extractLsb' 10 2 = f.sri := congrArg HdrFields.sri hf
  have hvc : (encodeClass v l f).extractLsb' 19 2 = versionCode v := verBits_encodeClass v l f
  have hlc : (encodeClass v l f).extractLsb' 17 2 = layerCode l := layBits_encodeClass v l f
  have hprot : (encodeClass v l f).extractLsb' 16 1 = f.prot := congrArg HdrFields.prot hf
  have hpad : (encodeClass v l f).extractLsb' 9 1 = f.pad := congrArg HdrFields.pad hf
  have hchm : (encodeClass v l f).extractLsb' 6 2 = f.chm := congrArg HdrFields.chm hf
  simp only [decodeUnit, hsync, hvc, hlc, hprot, hbri, hsri, hpad, hchm, versionOf_versionCode, layerOf_layerCode]
  rcases decodeClass_cases c v l f with ⟨hbad, e⟩ | ⟨h0, h15, h3, k, r, hk, hp, hr, e⟩ <;> rw [e]
  · rcases hbad with h | h | h
    · have h0 : romBr v l 0 = some 0 := by cases v <;> cases l <;> rfl
      simp [h, h0]
    · simp [h]
    · cases romBr v l f.bri.toNat <;> simp [h]
  · have hlen := frameLength_eq c.layer1Coeff (decPadding f.pad) (romBr_mem hk) (romSr_mem hr)
    simp [h15, h3, hk, hr, hlen, Nat.pos_iff_ne_zero.1 hp]

/-- A word the decoder unit accepts is of a class, and decodes as the class path decodes it (R88, R109). -/
theorem decodeUnit_some {c : Config} {w : Word} {d : Hdr} (e : decodeUnit c w = some d) :
    ∃ v l, encodeClass v l (fieldsOf w) = w ∧ decodeClass c v l (fieldsOf w) = some d := by
  rcases decodeHeader_cases w with ⟨hs, _⟩ | ⟨_, hv, _⟩ | ⟨_, _, hl, _⟩ | ⟨v, l, hs, hv, hl, _⟩
  · simp [decodeUnit, decSync, hs] at e
  · simp [decodeUnit, show w.extractLsb' 19 2 = 0b01#2 from hv, versionOf_eq_none.2] at e
  · rw [decodeUnit, show w.extractLsb' 17 2 = 0b00#2 from hl, layerOf_eq_none.2 rfl] at e
    split at e
    · cases e
    · split at e <;> cases e
  · have hw := encodeClass_fieldsOf v l hs hv hl
    exact ⟨v, l, hw, by rw [← decodeUnit_encodeClass, hw, e]⟩

/-- A decoded frame fits FB (R133, R135). -/
theorem frameLengthBytes_le_fbSize {c : Config} {w : Word} {d : Hdr} (e : decodeUnit c w = some d) :
    d.frameLengthBytes.toNat ≤ fbSize := by
  obtain ⟨v, l, _, hd⟩ := decodeUnit_some e
  obtain ⟨_, hle, _⟩ := decodeClass_some hd
  exact hle.trans (by decide)

/-! ### The invariant: its parts -/

/-- The bounds of the registers and of the source, which every step keeps whatever the command does (R24, R26, R60, R199). -/
structure State.Bounded (s : State) : Prop where
  fbWf : Memory.wf s.fb
  wfillLe : s.wfill ≤ 4
  pcntLe : s.pcnt ≤ maxFrameLen
  srcShort : s.src.length < 2 ^ 63

/-- What every state inside an atomic step of a command has in common, until the command ends (R172). -/
structure State.Working (s : State) : Prop extends s.Bounded where
  isBusy : s.busy = true
  notDone : s.done = false
  noKind : s.exkind = none
  noStale : s.stale = []

/-- The result registers and FB hold a whole decoded frame (R160, R162, R164). -/
structure State.HoldsFrame (s : State) : Prop where
  decoded : decodeUnit s.cfg s.hdr.word = some s.hdr
  stored : s.mode = .full → fbHolds s.fb s.hdr s.hdr.frameLengthBytes.toNat

theorem State.Inv.bounded (h : s.Inv) : s.Bounded := { h with }

/-- A command in progress is not in EXHAUSTED and has not completed. -/
theorem State.Inv.working (h : s.Inv) (hc : s.ctx ≠ .idle) (hs : s.stale = []) : s.Working where
  toBounded := h.bounded
  isBusy := h.busyIff.2 hc
  notDone := h.busyNotDone (h.busyIff.2 hc)
  noKind := Option.eq_none_iff_forall_ne_some.2 fun k hk =>
    Bool.false_ne_true ((h.exhaustedDone k hk).1.symm.trans (h.busyIff.2 hc))
  noStale := hs

theorem State.Inv.idle_of_not_busy (h : s.Inv) (hb : s.busy = false) : s.ctx = .idle := by
  by_contra hc
  simp [h.busyIff.2 hc] at hb

/-- A command in progress that reads no payload is in SEEKING. -/
theorem State.Inv.seeking (h : s.Inv) (hc : s.ctx ≠ .idle) (hp : s.ctx ≠ .payload) : s.phase = .seeking := by
  cases hph : s.phase with
  | seeking => rfl
  | emitting => exact absurd (h.emittingIff.1 hph) hp
  | exhausted =>
    obtain ⟨k, hk⟩ := Option.isSome_iff_exists.1 (h.exhaustedIff.1 hph)
    exact absurd (h.busyIff.2 hc) (by simp [(h.exhaustedDone k hk).1])

theorem ne_of_unwrapping {c d : Ctx} (hc : c.unwrapping = true) (hd : d.unwrapping = false) : c ≠ d :=
  fun e => by simp [e, hd] at hc

/-- A command in the unwrapper is in SEEKING, past the container check (R156, R191). -/
theorem State.Inv.walking (h : s.Inv) (hs : s.stale = []) (hc : s.ctx.unwrapping = true) :
    s.Working ∧ s.phase = .seeking ∧ s.riffChecked = true :=
  ⟨h.working (ne_of_unwrapping hc rfl) hs, h.seeking (ne_of_unwrapping hc rfl) (ne_of_unwrapping hc rfl),
    h.unwrapChecked hc⟩

/-- The invariant of an idle block. -/
theorem State.Bounded.inv_of_idle (h : s.Bounded) (hc : s.ctx = .idle) (hb : s.busy = false) (hp : s.phase ≠ .emitting)
    (hdone : s.done = true → s.result ≠ .none) (hex : s.phase = .exhausted ↔ s.exkind.isSome = true)
    (hk : ∀ k, s.exkind = some k → s.done = true ∧ s.result = exhaustResult k)
    (hv : resultsValid s = true → s.HoldsFrame) : s.Inv :=
  { h with
    busyIff := by simp [hb, hc]
    busyNotDone := by simp [hb]
    doneHasResult := hdone
    emittingIff := by simp [hp, hc]
    exhaustedIff := hex
    exhaustedDone := fun k e => ⟨hb, hk k e⟩
    fillOpen := by simp [hc]
    payloadOpen := by simp [hc]
    frameHeader := fun hr => (hv hr).decoded
    payloadStored := by simp [hc]
    frameStored := fun hr => (hv hr).stored
    unwrapChecked := by simp [hc, Ctx.unwrapping]
    counterInRange := by simp [hc, Ctx.counterInRange]
    cursorInPlace := by simp [hc, Ctx.cursorInPlace]
    staleFirst := fun _ => .inl hc }

/-- The invariant of a command in progress that reads no payload. -/
theorem State.Working.inv_of_seeking (h : s.Working) (hph : s.phase = .seeking) (hc : s.ctx ≠ .idle)
    (hp : s.ctx ≠ .payload) (hfill : s.ctx = .fill → s.wfill < 4)
    (hwalk : s.ctx.unwrapping = true → s.riffChecked = true) (hcount : s.ctx.counterInRange = true)
    (hcur : s.ctx.cursorInPlace s.upos s.cursor) : s.Inv :=
  { h with
    busyIff := by simp [h.isBusy, hc]
    busyNotDone := fun _ => h.notDone
    doneHasResult := by simp [h.notDone]
    emittingIff := by simp [hph, hp]
    exhaustedIff := by simp [hph, h.noKind]
    exhaustedDone := by simp [h.noKind]
    fillOpen := hfill
    payloadOpen := fun e => absurd e hp
    frameHeader := by simp [resultsValid, h.notDone]
    payloadStored := fun e => absurd e hp
    frameStored := by simp [resultsValid, h.notDone]
    unwrapChecked := hwalk
    counterInRange := hcount
    cursorInPlace := hcur
    staleFirst := fun e => absurd h.noStale e }

/-- The invariant of a command in the unwrapper (R192). -/
theorem State.Working.inv_of_walk (h : s.Working) (hph : s.phase = .seeking) (hr : s.riffChecked = true)
    (hc : s.ctx.unwrapping = true) (hcount : s.ctx.counterInRange = true)
    (hcur : s.ctx.cursorInPlace s.upos s.cursor) : s.Inv :=
  h.inv_of_seeking hph (ne_of_unwrapping hc rfl) (ne_of_unwrapping hc rfl)
    (fun e => absurd e (ne_of_unwrapping hc rfl)) (fun _ => hr) hcount hcur

/-- The invariant of a command that reads the payload of the frame in `hdr`. -/
theorem State.Working.inv_of_payload (h : s.Working) (hph : s.phase = .emitting) (hc : s.ctx = .payload)
    (hlow : 4 ≤ s.pcnt) (hhigh : s.pcnt < s.hdr.frameLengthBytes.toNat)
    (hdec : decodeUnit s.cfg s.hdr.word = some s.hdr) (hfb : s.mode = .full → fbHolds s.fb s.hdr s.pcnt) : s.Inv :=
  { h with
    busyIff := by simp [h.isBusy, hc]
    busyNotDone := fun _ => h.notDone
    doneHasResult := by simp [h.notDone]
    emittingIff := by simp [hph, hc]
    exhaustedIff := by simp [hph, h.noKind]
    exhaustedDone := by simp [h.noKind]
    fillOpen := by simp [hc]
    payloadOpen := fun _ => ⟨hlow, hhigh, hdec⟩
    frameHeader := by simp [resultsValid, h.notDone]
    payloadStored := fun _ => hfb
    frameStored := by simp [resultsValid, h.notDone]
    unwrapChecked := by simp [hc, Ctx.unwrapping]
    counterInRange := by simp [hc, Ctx.counterInRange]
    cursorInPlace := by simp [hc, Ctx.cursorInPlace]
    staleFirst := fun e => absurd h.noStale e }

/-! ### The operations keep it -/

theorem exhaustResult_ne (k : ExKind) : exhaustResult k ≠ .none ∧ exhaustResult k ≠ .frame := by cases k <;> decide

/-- However a command ends in EXHAUSTED, the block is idle with the terminal code (R168, R214). -/
theorem State.Bounded.exhaust_inv (h : s.Bounded) (k : ExKind) : (exhaust k s).Inv := by
  obtain ⟨hnone, hframe⟩ := exhaustResult_ne k
  exact State.Bounded.inv_of_idle { h with } rfl rfl (by simp) (by simp [hnone]) (by simp) (by simp)
    (by simp [resultsValid, hframe])

/-- A delivered frame leaves the block idle in SEEKING with valid results (R164). -/
theorem State.Working.emitDone_inv (h : s.Working) (hf : s.HoldsFrame) : (emitDone s).Inv :=
  State.Bounded.inv_of_idle { h.toBounded with } rfl rfl (by simp) (by simp) (by simp [h.noKind]) (by simp [h.noKind])
    fun _ => { hf with }

/-- The loop invariant of EMIT.PAYLOAD: the first `pcnt` bytes of the frame in `hdr` are read (R162). -/
theorem State.Working.payloadLoop_inv (h : s.Working) (hph : s.phase = .emitting) (hlow : 4 ≤ s.pcnt)
    (hhigh : s.pcnt ≤ s.hdr.frameLengthBytes.toNat) (hdec : decodeUnit s.cfg s.hdr.word = some s.hdr)
    (hfb : s.mode = .full → fbHolds s.fb s.hdr s.pcnt) : (payloadLoop s).Inv := by
  rcases payloadLoop_cases s with ⟨hlt, e⟩ | ⟨hge, e⟩ <;> rw [e]
  · exact State.Working.inv_of_payload { h with } hph rfl hlow hlt hdec hfb
  · have hlen : s.pcnt = s.hdr.frameLengthBytes.toNat := by omega
    exact h.emitDone_inv ⟨hdec, hlen ▸ hfb⟩

/-- After EMIT.COPYHDR the first four bytes in FB are the header word's own (R161). -/
theorem fbHolds_copyHeader {h : Hdr} (hw : h.word = windowWord s.w) (hm : s.mode = .full) :
    fbHolds (copyHeader s).fb h 4 := by
  obtain ⟨h0, h1, h2, h3⟩ := headerByte_headerWord s.w.b0 s.w.b1 s.w.b2 s.w.b3
  have hb : ∀ k, k < 4 → Memory.read (copyHeader s).fb k = some (headerByte h.word k) := by
    intro k hk
    rw [copyHeader_read, if_pos hm, hw, windowWord]
    interval_cases k <;> simp [*]
  exact ⟨fun i hi => by rw [hb i hi]; rfl, hb⟩

/-- One more payload byte in FB (R162). -/
theorem fbHolds_write {m : Memory} {h : Hdr} {n : Nat} (b : Byte) (hn : 4 ≤ n) (hm : fbHolds m h n) :
    fbHolds (Memory.write m n b) h (n + 1) := by
  obtain ⟨hread, hhead⟩ := hm
  refine ⟨fun i hi => ?_, fun k hk => ?_⟩
  · by_cases hin : i = n
    · simp [hin]
    · rw [Memory.read_write_other _ _ hin]; exact hread i (by omega)
  · rw [Memory.read_write_other _ _ (by omega)]; exact hhead k hk

/-- The latch of a valid header opens its payload, which is longer than the header (R160, R135). -/
theorem State.Working.latchHeader_inv (h : s.Working) {v : Version} {l : Layer} {f : HdrFields} {d : Hdr}
    (hd : decodeClass s.cfg v l f = some d) (hw : encodeClass v l f = windowWord s.w) : (latchHeader d s).Inv := by
  obtain ⟨hlen, _, hword⟩ := decodeClass_some hd
  have hwin : d.word = windowWord s.w := hword.trans hw
  have hwork : (copyHeader { s with hdr := d, phase := .emitting, pcnt := 4 }).Working := by
    constructor
    · exact ⟨copyHeader_wf h.fbWf, by simpa using h.wfillLe, by simp [maxFrameLen], by simpa using h.srcShort⟩
    all_goals simp [h.isBusy, h.notDone, h.noKind, h.noStale]
  refine hwork.payloadLoop_inv (by simp) (by simp) (by simp; omega) ?_ fun hm => ?_
  · simp [hword, decodeUnit_encodeClass, hd]
  · simpa using fbHolds_copyHeader (s := { s with hdr := d, phase := .emitting, pcnt := 4 }) hwin (by simpa using hm)

/-- SYNC.TRY latches the window's header or shifts the window (R157, R158). -/
theorem State.Working.tryWindow_inv (h : s.Working) (hph : s.phase = .seeking) : allNext State.Inv (tryWindow s) := by
  have hshift : (shiftWindow s).Inv :=
    State.Working.inv_of_seeking { h with } hph (by simp) (by simp) (by simp) (by simp [Ctx.unwrapping]) rfl trivial
  rcases tryWindow_cases s with ⟨v, l, hw, _, e⟩ | ⟨_, e⟩ <;> rw [e, allNext_next]
  · cases hd : decodeClass s.cfg v l (fieldsOf (windowWord s.w)) with
    | none => exact hshift
    | some d => exact h.latchHeader_inv hd hw
  · exact hshift

/-- The complete window goes to the decoder, or on the first fill to the unwrapper (R156). -/
theorem State.Working.afterFillDone_inv (h : s.Working) (hph : s.phase = .seeking) :
    allNext State.Inv (afterFillDone s) := by
  rcases afterFillDone_cases s with ⟨_, e⟩ | ⟨_, _, e⟩ <;> rw [e]
  · exact State.Working.tryWindow_inv { h with } hph
  · exact allNext_next.2 (State.Working.inv_of_walk { h with } hph rfl rfl rfl trivial)

/-- A whole chunk header is followed by a seek, to the data content or past the chunk (R195, R196). -/
theorem State.Working.chunkDone_inv (h : s.Working) (hph : s.phase = .seeking) (hr : s.riffChecked = true) :
    allNext State.Inv (chunkDone s) := by
  rcases chunkDone_cases s with ⟨_, _, e⟩ | ⟨_, _, e⟩ | ⟨_, e⟩ <;> rw [e]
  · exact allNext_next.2 (State.Working.inv_of_walk { h with } hph hr rfl rfl trivial)
  · exact allNext_next.2 (State.Working.inv_of_walk { h with } hph hr rfl rfl trivial)
  · exact allNext_refused _

/-! ### The transactions of a context -/

theorem pendingTxn_eq_read (hx : pendingTxn s = some .read) :
    s.ctx = .fill ∨ s.ctx = .shift ∨ s.ctx = .payload ∨ (∃ k, s.ctx = .riffHeader k) ∨ (∃ k, s.ctx = .chunkId k) ∨
      ∃ k, s.ctx = .chunkSize k := by
  unfold pendingTxn at hx
  split at hx <;> simp_all

theorem pendingTxn_eq_seek {p : Nat} (hx : pendingTxn s = some (.seek p)) :
    (s.ctx = .rewind ∧ p = 0) ∨ (s.ctx = .seekData ∧ p = s.upos) ∨ (s.ctx = .seekSkip ∧ p = s.upos) := by
  unfold pendingTxn at hx
  split at hx <;> simp_all

/-! ### The source's responses keep it -/

section
variable (h : s.Inv) (hs : s.stale = []) (b : Byte)
include h hs

theorem State.Inv.afterFill_data_inv (hc : s.ctx = .fill) :
    allNext State.Inv (afterFill (.data b) { s with cursor := s.cursor + 1 }) := by
  have hw := h.working (by simp [hc]) hs
  have hph := h.seeking (by simp [hc]) (by simp [hc])
  have hopen := h.fillOpen hc
  rw [afterFill_data]
  split
  · rename_i hlt
    exact allNext_next.2 (State.Working.inv_of_seeking { hw with wfillLe := Nat.le_of_lt hlt } hph (by simp [hc])
      (by simp [hc]) (fun _ => hlt) h.unwrapChecked h.counterInRange (by simp [hc, Ctx.cursorInPlace]))
  · exact State.Working.afterFillDone_inv { hw with wfillLe := hopen } hph

theorem State.Inv.afterShift_data_inv (hc : s.ctx = .shift) :
    allNext State.Inv (afterShift (.data b) { s with cursor := s.cursor + 1 }) :=
  State.Working.tryWindow_inv { h.working (by simp [hc]) hs with } (h.seeking (by simp [hc]) (by simp [hc]))

theorem State.Inv.afterPayload_data_inv (hc : s.ctx = .payload) :
    allNext State.Inv (afterPayload (.data b) { s with cursor := s.cursor + 1 }) := by
  obtain ⟨hlow, hhigh, hdec⟩ := h.payloadOpen hc
  have hw := h.working (by simp [hc]) hs
  have hroom : s.pcnt < fbSize := hhigh.trans_le (frameLengthBytes_le_fbSize hdec)
  rw [afterPayload_data _ (by exact hroom), allNext_next]
  refine State.Working.payloadLoop_inv { hw with fbWf := ?_, pcntLe := hroom } (h.emittingIff.2 hc)
    (Nat.le_succ_of_le hlow) hhigh hdec fun hm => ?_
  · dsimp only
    split
    · exact Memory.wf_write b h.fbWf hroom
    · exact h.fbWf
  · have hm : s.mode = .full := hm
    simpa [hm] using fbHolds_write b hlow (h.payloadStored hc hm)

theorem State.Inv.afterRiffHeader_data_inv {k : Nat} (hc : s.ctx = .riffHeader k) :
    allNext State.Inv (afterRiffHeader k (.data b) { s with cursor := s.cursor + 1 }) := by
  obtain ⟨hw, hph, hr⟩ := h.walking hs (by rw [hc]; rfl)
  have hk := h.counterInRange
  have hcur := h.cursorInPlace
  simp only [hc, Ctx.counterInRange, Ctx.cursorInPlace, decide_eq_true_eq] at hk hcur
  rw [afterRiffHeader, onByte_data]
  split
  · exact allNext_next.2 (State.Working.inv_of_walk { hw with } hph hr rfl (by simpa [Ctx.counterInRange])
      (by simp [hcur, Ctx.cursorInPlace]))
  · exact allNext_next.2 (State.Working.inv_of_walk { hw with } hph hr rfl rfl (by simp [Ctx.cursorInPlace]; omega))

theorem State.Inv.afterChunkId_data_inv {k : Nat} (hc : s.ctx = .chunkId k) :
    allNext State.Inv (afterChunkId k (.data b) { s with cursor := s.cursor + 1 }) := by
  obtain ⟨hw, hph, hr⟩ := h.walking hs (by rw [hc]; rfl)
  have hk := h.counterInRange
  have hcur := h.cursorInPlace
  simp only [hc, Ctx.counterInRange, Ctx.cursorInPlace, decide_eq_true_eq] at hk hcur
  rw [afterChunkId, onByte_data]
  split
  · exact allNext_next.2 (State.Working.inv_of_walk { hw with } hph hr rfl (by simpa [Ctx.counterInRange])
      (by simp [hcur, Ctx.cursorInPlace]; omega))
  · exact allNext_next.2 (State.Working.inv_of_walk { hw with } hph hr rfl rfl (by simp [Ctx.cursorInPlace]; omega))

theorem State.Inv.afterChunkSize_data_inv {k : Nat} (hc : s.ctx = .chunkSize k) :
    allNext State.Inv (afterChunkSize k (.data b) { s with cursor := s.cursor + 1 }) := by
  obtain ⟨hw, hph, hr⟩ := h.walking hs (by rw [hc]; rfl)
  have hcur := h.cursorInPlace
  simp only [hc, Ctx.cursorInPlace] at hcur
  rw [afterChunkSize, onByte_data]
  dsimp only
  split
  · exact allNext_next.2 (State.Working.inv_of_walk { hw with } hph hr rfl (by simpa [Ctx.counterInRange])
      (by simp [hcur, Ctx.cursorInPlace]; omega))
  · exact State.Working.chunkDone_inv { hw with } hph hr

/-- A byte of the source, read at the cursor (R155, R158, R162, R192). -/
theorem State.Inv.react_data_inv (hx : pendingTxn s = some .read) :
    allNext State.Inv (react (.data b) { s with cursor := s.cursor + 1 }) := by
  rcases pendingTxn_eq_read hx with hc | hc | hc | ⟨k, hc⟩ | ⟨k, hc⟩ | ⟨k, hc⟩
  · rw [react_fill _ (by exact hc)]; exact h.afterFill_data_inv hs b hc
  · rw [react_shift _ (by exact hc)]; exact h.afterShift_data_inv hs b hc
  · rw [react_payload _ (by exact hc)]; exact h.afterPayload_data_inv hs b hc
  · rw [react_riffHeader (k := k) _ (by exact hc)]; exact h.afterRiffHeader_data_inv hs b hc
  · rw [react_chunkId (k := k) _ (by exact hc)]; exact h.afterChunkId_data_inv hs b hc
  · rw [react_chunkSize (k := k) _ (by exact hc)]; exact h.afterChunkSize_data_inv hs b hc

/-- The source has moved its cursor to the target of a seek (R192). -/
theorem State.Inv.react_ok_inv {p : Nat} (hx : pendingTxn s = some (.seek p)) :
    allNext State.Inv (react .ok { s with cursor := p }) := by
  have hwalk : s.ctx.unwrapping = true := by
    rcases pendingTxn_eq_seek hx with ⟨hc, _⟩ | ⟨hc, _⟩ | ⟨hc, _⟩ <;> rw [hc] <;> rfl
  obtain ⟨hw, hph, hr⟩ := h.walking hs hwalk
  rcases pendingTxn_eq_seek hx with ⟨hc, rfl⟩ | ⟨hc, rfl⟩ | ⟨hc, rfl⟩
  · rw [react_rewind _ (by exact hc), afterRewind, onSeek_ok, allNext_next]
    exact State.Working.inv_of_walk { hw with } hph hr rfl rfl rfl
  · rw [react_seekData _ (by exact hc), afterSeekData, onSeek_ok, allNext_next]
    exact State.Working.inv_of_seeking { hw with wfillLe := Nat.zero_le 4 } hph (by simp) (by simp) (by simp)
      (fun _ => hr) rfl trivial
  · rw [react_seekSkip _ (by exact hc), afterSeekSkip, onSeek_ok, allNext_next]
    exact State.Working.inv_of_walk { hw with } hph hr rfl rfl rfl

/-- The response the command in progress waits for, whatever it is (R172). -/
theorem State.Inv.response_inv {x : Txn} {d : Draw} (hx : pendingTxn s = some x) :
    allNext State.Inv (react (performTxn x d s).1 (performTxn x d s).2) := by
  rcases react_performTxn_cases d hx with ⟨k, e⟩ | ⟨rfl, b, e⟩ | ⟨p, rfl, e⟩ <;> rw [e]
  · exact allNext_next.2 (h.bounded.exhaust_inv k)
  · exact h.react_data_inv hs b hx
  · exact h.react_ok_inv hs hx

end

/-! ### The other inputs keep it -/

/-- A response that is discarded moves the source's cursor, which no waiting command has a claim on (R230). -/
theorem State.Inv.late_inv (h : s.Inv) {x : Txn} {xs : List Txn} (d : Draw) (hs : s.stale = x :: xs) :
    (performTxn x d { s with stale := xs }).2.Inv := by
  have hc := h.staleFirst (by simp [hs])
  obtain ⟨c, e⟩ := performTxn_state x d { s with stale := xs }
  rw [e]
  refine { h with cursorInPlace := ?_, staleFirst := fun _ => hc }
  rcases hc with hc | ⟨hc, _⟩ <;> simp [hc, Ctx.cursorInPlace]

/-- Reset puts every register at a value that meets the invariant, whatever it was (R53, R230). -/
theorem hardReset_inv (h : s.src.length < 2 ^ 63) : (hardReset s).Inv :=
  State.Bounded.inv_of_idle ⟨Memory.wf_nil, Nat.zero_le 4, Nat.zero_le maxFrameLen, h⟩ rfl rfl (by simp [State.reset])
    (by simp [State.reset]) (by simp [State.reset]) (by simp [State.reset]) (by simp [resultsValid, State.reset])

/-- A command accepted while not busy completes with the terminal code or waits for its first byte (R154, R155). -/
theorem State.Inv.acceptCommand_inv (h : s.Inv) {m : Mode} (hb : s.busy = false) :
    allNext State.Inv (acceptCommand m s) := by
  intro t ht
  have hc := h.idle_of_not_busy hb
  have hemit : s.phase ≠ .emitting := fun e => by simp [h.emittingIff.1 e] at hc
  rcases acceptCommand_next hb ht with ⟨k, hk, rfl⟩ | ⟨hp, rfl⟩
  · obtain ⟨hnone, hframe⟩ := exhaustResult_ne k
    exact State.Bounded.inv_of_idle { h.bounded with } rfl rfl hemit (by simp [hnone]) h.exhaustedIff
      (by simp [hk]) (by simp [resultsValid, hframe])
  · have hnk : s.exkind = none := by simpa using mt h.exhaustedIff.2 hp
    have hph : s.phase = .seeking := by cases e : s.phase <;> simp_all
    have hfill : (startFill { s with busy := true, done := false, mode := m, stale := [] }).Inv :=
      State.Working.inv_of_seeking
        { h.bounded with wfillLe := Nat.zero_le 4, isBusy := rfl, notDone := rfl, noKind := hnk, noStale := rfl } hph
        (by simp) (by simp) (by simp) (by simp [Ctx.unwrapping]) rfl trivial
    exact { hfill with staleFirst := fun _ => .inr ⟨rfl, rfl⟩ }

theorem State.Inv.takes_inv (h : s.Inv) {e : Event} (ht : Takes s e t) : t.Inv := by
  cases ht with
  | unchanged _ v => exact { h with }
  | accept hb _ ha => exact h.acceptCommand_inv hb t ha
  | reset => exact hardReset_inv h.srcShort
  | late d hs => exact h.late_inv d hs
  | response hs hx hr => exact h.response_inv hs hx t hr
  | bound hb hl =>
    have hc := h.idle_of_not_busy hb
    exact { h with srcShort := hl, cursorInPlace := by simp [hc, Ctx.cursorInPlace], staleFirst := nofun }

/-- Settles O41: each kind of effect an input can have keeps the invariant. -/
theorem everyStepKeepsTheInvariant : Obligations.EveryStepKeepsTheInvariant := by
  unfold Obligations.EveryStepKeepsTheInvariant
  intro s t h ht
  rcases step_next ht with rfl | ⟨e, rest, _, hte⟩
  · exact h
  · have h' : ({ s with env := rest } : State).Inv := { h with }
    exact h'.takes_inv hte

/-- Settles O40: both are states right after a reset. -/
theorem invariantHoldsAfterReset : Obligations.InvariantHoldsAfterReset := by
  unfold Obligations.InvariantHoldsAfterReset
  exact ⟨hardReset_inv (s := State.reset) (by decide), fun c bs hl => hardReset_inv (s := State.booted c bs) hl⟩

/-! ### What a response can change -/

/-- What the command in progress may change when it takes a response: never the source's side, never `riff_checked` to 0, and
`busy` and `done` only when it ends (R23, R37, R38). -/
structure State.Reacts (s t : State) : Prop where
  src : t.src = s.src
  cursor : t.cursor = s.cursor
  riffChecked : s.riffChecked = true → t.riffChecked = true
  busyDone : (t.busy = s.busy ∧ t.done = s.done) ∨ (t.busy = false ∧ t.done = true)

/-- A state that differs in none of those four. -/
theorem State.Reacts.of_same (hsrc : t.src = s.src) (hcur : t.cursor = s.cursor) (hr : t.riffChecked = s.riffChecked)
    (hb : t.busy = s.busy) (hd : t.done = s.done) : s.Reacts t :=
  ⟨hsrc, hcur, fun h => hr.trans h, .inl ⟨hb, hd⟩⟩

theorem exhaust_reacts (k : ExKind) : s.Reacts (exhaust k s) := ⟨rfl, rfl, id, .inr ⟨rfl, rfl⟩⟩

theorem payloadLoop_reacts : s.Reacts (payloadLoop s) := by
  rcases payloadLoop_cases s with ⟨_, e⟩ | ⟨_, e⟩ <;> rw [e]
  · exact .of_same rfl rfl rfl rfl rfl
  · exact ⟨rfl, rfl, id, .inr ⟨rfl, rfl⟩⟩

theorem tryCandidate_reacts (d : Option Hdr) : s.Reacts (tryCandidate d s) := by
  cases d with
  | none => exact .of_same rfl rfl rfl rfl rfl
  | some d =>
    have h := payloadLoop_reacts (s := copyHeader { s with hdr := d, phase := .emitting, pcnt := 4 })
    obtain ⟨hsrc, hcur, hr, hbd⟩ := h
    simp only [copyHeader_src, copyHeader_cursor, copyHeader_riffChecked, copyHeader_busy, copyHeader_done]
      at hsrc hcur hr hbd
    exact ⟨hsrc, hcur, hr, hbd⟩

theorem tryWindow_reacts : allNext s.Reacts (tryWindow s) := by
  rcases tryWindow_cases s with ⟨v, l, _, _, e⟩ | ⟨_, e⟩ <;> rw [e, allNext_next]
  · exact tryCandidate_reacts _
  · exact tryCandidate_reacts none

theorem afterFillDone_reacts : allNext s.Reacts (afterFillDone s) := by
  rcases afterFillDone_cases s with ⟨_, e⟩ | ⟨_, _, e⟩ <;> rw [e]
  · exact allNext_mono (fun _ h => { h with riffChecked := fun _ => h.riffChecked rfl }) tryWindow_reacts
  · exact allNext_next.2 ⟨rfl, rfl, fun _ => rfl, .inl ⟨rfl, rfl⟩⟩

theorem chunkDone_reacts : allNext s.Reacts (chunkDone s) := by
  rcases chunkDone_cases s with ⟨_, _, e⟩ | ⟨_, _, e⟩ | ⟨_, e⟩ <;> rw [e]
  · exact allNext_next.2 (.of_same rfl rfl rfl rfl rfl)
  · exact allNext_next.2 (.of_same rfl rfl rfl rfl rfl)
  · exact allNext_refused _

theorem afterFill_reacts (r : Response) : allNext s.Reacts (afterFill r s) := by
  refine allNext_onByte r _ exhaust_reacts fun b => ?_
  dsimp only
  split
  · exact allNext_next.2 (.of_same rfl rfl rfl rfl rfl)
  · exact allNext_mono (fun _ h => { h with }) afterFillDone_reacts

theorem afterShift_reacts (r : Response) : allNext s.Reacts (afterShift r s) :=
  allNext_onByte r _ exhaust_reacts fun _ => allNext_mono (fun _ h => { h with }) tryWindow_reacts

theorem afterPayload_reacts (r : Response) : allNext s.Reacts (afterPayload r s) := by
  refine allNext_onByte r _ exhaust_reacts fun b => ?_
  rcases storePayload_cases s s.pcnt b with ⟨_, e⟩ | ⟨_, _, e⟩ | ⟨_, _, e⟩ <;> rw [e]
  · exact allNext_next.2 { payloadLoop_reacts with }
  · exact allNext_next.2 { payloadLoop_reacts with }
  · exact allNext_fault _

theorem afterRiffHeader_reacts (k : Nat) (r : Response) : allNext s.Reacts (afterRiffHeader k r s) := by
  refine allNext_onByte r _ exhaust_reacts fun _ => ?_
  split <;> exact allNext_next.2 (.of_same rfl rfl rfl rfl rfl)

theorem afterChunkId_reacts (k : Nat) (r : Response) : allNext s.Reacts (afterChunkId k r s) :=
  allNext_onByte r _ exhaust_reacts fun _ => allNext_next.2 (.of_same rfl rfl rfl rfl rfl)

theorem afterChunkSize_reacts (k : Nat) (r : Response) : allNext s.Reacts (afterChunkSize k r s) := by
  refine allNext_onByte r _ exhaust_reacts fun b => ?_
  dsimp only
  split
  · exact allNext_next.2 (.of_same rfl rfl rfl rfl rfl)
  · exact allNext_mono (fun _ h => { h with }) chunkDone_reacts

theorem react_reacts (r : Response) : allNext s.Reacts (react r s) := by
  -- One bullet per context, in the order of `Ctx`.
  unfold react
  split
  · exact allNext_next.2 (.of_same rfl rfl rfl rfl rfl)
  · exact afterFill_reacts r
  · exact afterShift_reacts r
  · exact afterPayload_reacts r
  · exact allNext_onSeek r (exhaust_reacts _) (allNext_next.2 (.of_same rfl rfl rfl rfl rfl))
  · exact afterRiffHeader_reacts _ r
  · exact afterChunkId_reacts _ r
  · exact afterChunkSize_reacts _ r
  · exact allNext_onSeek r (exhaust_reacts _) (allNext_next.2 (.of_same rfl rfl rfl rfl rfl))
  · exact allNext_onSeek r (exhaust_reacts _) (allNext_next.2 (.of_same rfl rfl rfl rfl rfl))

/-- An accepted command changes neither the source's side nor `riff_checked` (R150, R154). -/
theorem acceptCommand_keeps {m : Mode} (hb : s.busy = false) (e : acceptCommand m s = .next t) :
    t.src = s.src ∧ t.cursor = s.cursor ∧ t.riffChecked = s.riffChecked := by
  rcases acceptCommand_next hb e with ⟨k, _, rfl⟩ | ⟨_, rfl⟩ <;> exact ⟨rfl, rfl, rfl⟩

/-- The source moves its cursor by one byte read or to a seek's target, for the transaction it answers (R61, R62). -/
theorem performTxn_cursor {o : Option Txn} {x : Txn} (d : Draw) (s : State) (ho : o = some x) :
    (performTxn x d s).2.cursor = s.cursor ∨
    ((performTxn x d s).2.cursor = s.cursor + 1 ∧ s.cursor < s.src.length ∧ o = some .read) ∨
    o = some (.seek (performTxn x d s).2.cursor) := by
  subst ho
  cases x with
  | read =>
    rcases performTxn_read_cases d s with ⟨b, hb, _, e⟩ | ⟨_, _, e⟩ | ⟨_, e⟩ <;> rw [e]
    · exact .inr (.inl ⟨rfl, (List.getElem?_eq_some_iff.1 hb).1, rfl⟩)
    · exact .inl rfl
    · exact .inl rfl
  | seek p =>
    cases d with
    | normal => exact .inr (.inr rfl)
    | error => exact .inl rfl

/-- The answer to the command in progress: the source moves its cursor and the command reacts. -/
theorem response_reacts {x : Txn} {d : Draw} (h : react (performTxn x d s).1 (performTxn x d s).2 = .next t) :
    t.cursor = (performTxn x d s).2.cursor ∧ t.src = s.src ∧ (s.riffChecked = true → t.riffChecked = true) ∧
      ((t.busy = s.busy ∧ t.done = s.done) ∨ (t.busy = false ∧ t.done = true)) := by
  obtain ⟨hsrc, hcur, hr, hbd⟩ := react_reacts _ t h
  obtain ⟨c, e⟩ := performTxn_state x d s
  rw [e] at hsrc hr hbd
  exact ⟨hcur, hsrc, hr, hbd⟩

/-! ### Who writes `riff_checked`, `busy`, `done` and the cursor -/

/-- Settles O33: of the effects an input can have, reset alone clears `riff_checked`. -/
theorem riffCheckedIsClearedOnlyByReset : Obligations.RiffCheckedIsClearedOnlyByReset := by
  unfold Obligations.RiffCheckedIsClearedOnlyByReset
  intro s t e rest hs hne ht hr
  cases takes_of_step hs ht with
  | unchanged | bound => exact hr
  | accept hb _ ha =>
    obtain ⟨_, _, hrc⟩ := acceptCommand_keeps hb ha
    exact hrc.trans hr
  | reset => exact absurd rfl hne
  | @late x xs d _ =>
    obtain ⟨c, hc⟩ := performTxn_state x d { s with env := rest, stale := xs }
    rw [hc]
    exact hr
  | response _ _ h =>
    obtain ⟨_, _, hrc, _⟩ := response_reacts h
    exact hrc hr

/-- Settles O35: only an accepted command, a reset, or a response that ends the command in progress touches the two. -/
theorem onlyAcceptanceAndCompletionWriteBusyAndDone : Obligations.OnlyAcceptanceAndCompletionWriteBusyAndDone := by
  unfold Obligations.OnlyAcceptanceAndCompletionWriteBusyAndDone
  intro s t e rest hinv hs ht hchange
  cases takes_of_step hs ht with
  | unchanged | bound => simp at hchange
  | accept hb hc _ => exact .inr (.inl ⟨hb, _, rfl, hc⟩)
  | reset => exact .inl rfl
  | @late x xs d _ =>
    obtain ⟨c, hc⟩ := performTxn_state x d { s with env := rest, stale := xs }
    simp [hc] at hchange
  | @response x d _ _ hx h =>
    have hbusy : s.busy = true := hinv.busyIff.2 fun hc => by simp [pendingTxn, hc] at hx
    obtain ⟨_, _, _, ⟨hb, hd⟩ | ⟨hb, hd⟩⟩ := response_reacts h
    · simp [hb, hd] at hchange
    · exact .inr (.inr ⟨hbusy, hb, hd, d, rfl⟩)

/-- Settles O36: the source alone moves its cursor, for the oldest transaction outstanding. -/
theorem cursorMovesOnlyAsTheSourceSays : Obligations.CursorMovesOnlyAsTheSourceSays := by
  unfold Obligations.CursorMovesOnlyAsTheSourceSays
  intro s t e rest hs hne ht
  cases takes_of_step hs ht with
  | unchanged | reset => exact ⟨rfl, .inl rfl⟩
  | accept hb _ ha =>
    obtain ⟨hsrc, hcur, _⟩ := acceptCommand_keeps hb ha
    exact ⟨hsrc, .inl hcur⟩
  | @late x xs d hst =>
    have hhead : (s.stale ++ (pendingTxn s).toList).head? = some x := by simp [show s.stale = x :: xs from hst]
    obtain ⟨c, hc⟩ := performTxn_state x d { s with env := rest, stale := xs }
    exact ⟨by rw [hc], (performTxn_cursor d { s with env := rest, stale := xs } hhead).imp_right fun h => ⟨⟨d, rfl⟩, h⟩⟩
  | @response x d _ hst hx h =>
    have hhead : (s.stale ++ (pendingTxn s).toList).head? = some x := by
      simp [show s.stale = [] from hst, show pendingTxn s = some x from hx]
    obtain ⟨hcur, hsrc, _⟩ := response_reacts h
    rw [hcur]
    exact ⟨hsrc, (performTxn_cursor d { s with env := rest } hhead).imp_right fun h => ⟨⟨d, rfl⟩, h⟩⟩
  | bound => exact absurd rfl (hne _)

/-! ### Reset and host reads -/

/-- Settles O53: the state after reset, field by field. -/
theorem resetRestoresTheBlock : Obligations.ResetRestoresTheBlock := by
  unfold Obligations.ResetRestoresTheBlock
  intro s rest hs
  exact ⟨_, step_rst hs, rfl, rfl, rfl, rfl, rfl, rfl, rfl, rfl, rfl, rfl, fun _ => rfl, rfl, rfl, rfl, rfl, rfl, rfl⟩

/-- Settles O52: a host read writes `rdata` alone. -/
theorem hostReadsHaveNoSideEffect : Obligations.HostReadsHaveNoSideEffect := by
  unfold Obligations.HostReadsHaveNoSideEffect
  intro s t offset width rest hs ht
  rw [step_hostRead hs] at ht
  obtain ⟨v, rfl⟩ := hostRead_next ht
  rfl

/-! ### Register accesses -/

section
variable {o i : Nat} {v : Word} {rest : List Event}

/-- A register lies outside the FB window. -/
theorem not_inFbWindow (ho : o < 0x10000 ∨ 0x14000 ≤ o) : ¬ inFbWindow o = true := by
  rw [inFbWindow_iff]
  omega

theorem step_readRegister (ho : o < 0x10000 ∨ 0x14000 ≤ o) (ha : o % 4 = 0) (hs : s.env = .hostRead o 4 :: rest)
    (hv : readRegister s o = some v) : step s = .next { s with env := rest, rdata := v } := by
  have hv : readRegister { s with env := rest } o = some v := hv
  rw [step_hostRead hs, hostRead, if_neg (not_inFbWindow ho), if_pos ((wordAccess_iff o 4).2 ⟨rfl, ha⟩), hv]

theorem step_readRegister_undefined (ho : o < 0x10000 ∨ 0x14000 ≤ o) (ha : o % 4 = 0)
    (hs : s.env = .hostRead o 4 :: rest) (hv : readRegister s o = none) : step s = .fault .hostUndefinedRegister := by
  have hv : readRegister { s with env := rest } o = none := hv
  rw [step_hostRead hs, hostRead, if_neg (not_inFbWindow ho), if_pos ((wordAccess_iff o 4).2 ⟨rfl, ha⟩), hv]

/-- A word written elsewhere than to CMD is ignored (R40). -/
theorem step_writeRegister (ho : o < 0x10000 ∨ 0x14000 ≤ o) (ha : o % 4 = 0) (hne : o ≠ 0)
    (hs : s.env = .hostWrite o 4 v :: rest) : step s = .next { s with env := rest } := by
  rw [step_hostWrite hs, hostWrite, if_neg (not_inFbWindow ho), if_pos ((wordAccess_iff o 4).2 ⟨rfl, ha⟩), if_neg hne]

theorem inFbWindow_fbByte (hi : i < 16384) : inFbWindow (0x10000 + i) = true := by
  rw [inFbWindow_iff]
  omega

theorem step_readFb (hi : i < 16384) (hs : s.env = .hostRead (0x10000 + i) 1 :: rest) {b : Byte}
    (hb : readFb s i = some b) : step s = .next { s with env := rest, rdata := b.zeroExtend 32 } := by
  have hb : readFb { s with env := rest } (0x10000 + i - fbBase) = some b := by rwa [fbBase, Nat.add_sub_cancel_left]
  rw [step_hostRead hs, hostRead, if_pos (inFbWindow_fbByte hi), if_pos rfl, hb]

theorem step_readFb_undefined (hi : i < 16384) (hs : s.env = .hostRead (0x10000 + i) 1 :: rest)
    (hb : readFb s i = none) : step s = .fault .hostUndefinedFb := by
  have hb : readFb { s with env := rest } (0x10000 + i - fbBase) = none := by rwa [fbBase, Nat.add_sub_cancel_left]
  rw [step_hostRead hs, hostRead, if_pos (inFbWindow_fbByte hi), if_pos rfl, hb]

/-- A byte written to FB is ignored (R40). -/
theorem step_writeFb (hi : i < 16384) (hs : s.env = .hostWrite (0x10000 + i) 1 v :: rest) :
    step s = .next { s with env := rest } := by
  rw [step_hostWrite hs, hostWrite, if_pos (inFbWindow_fbByte hi), if_pos rfl]

/-- CMD and the unmapped offsets read 0 (R40, R41). -/
theorem readRegister_unmapped (ho : o = 0 ∨ 0x20 ≤ o) : readRegister s o = some 0 := by
  unfold readRegister
  split
  case h_1 | h_9 => rfl
  all_goals omega

theorem resultRegister_valid (h : resultsValid s = true) : resultRegister s v = some v := if_pos h

theorem resultRegister_invalid (h : ¬ resultsValid s = true) : resultRegister s v = none := if_neg h

end

/-- Settles O50: these offsets read 0 and ignore writes. -/
theorem unmappedReadsZeroAndOtherWritesAreIgnored : Obligations.UnmappedReadsZeroAndOtherWritesAreIgnored := by
  unfold Obligations.UnmappedReadsZeroAndOtherWritesAreIgnored
  intro s offset rest ha ho
  exact ⟨fun hz hs => step_readRegister ho ha hs (readRegister_unmapped hz),
    fun v hne hs => step_writeRegister ho ha hne hs, fun v i hi hs => step_writeFb hi hs⟩

/-! ### Bit fields of the host's words -/

@[simp] theorem ofBool_eq_one_iff (b : Bool) : BitVec.ofBool b = 1#1 ↔ b = true := by cases b <;> decide

@[simp] theorem modeCode_eq_one_iff (m : Mode) : modeCode m = 1#1 ↔ m = .headerOnly := by cases m <;> decide

/-- The fields of STATUS (R42). -/
theorem statusWord_fields (s : State) :
    (statusWord s).extractLsb' 0 1 = BitVec.ofBool s.busy ∧ (statusWord s).extractLsb' 1 1 = BitVec.ofBool s.done ∧
    (statusWord s).extractLsb' 2 3 = resultCode s.result ∧ (statusWord s).extractLsb' 5 2 = phaseCode s.phase ∧
    (statusWord s).extractLsb' 7 1 = BitVec.ofBool s.riffChecked ∧ (statusWord s).extractLsb' 8 1 = modeCode s.mode ∧
    (statusWord s).extractLsb' 9 23 = 0#23 := by
  refine ⟨?_, ?_, ?_, ?_, ?_, ?_, ?_⟩ <;> rw [statusWord] <;> repeat rw [BitVec.extractLsb'_append_eq_of_le (by decide)]
  case refine_7 => exact BitVec.extractLsb'_eq_self
  all_goals exact extract_low _ _

/-- Settles O47: STATUS has a value at any time, its fields in their places. -/
theorem statusRegisterLayout : Obligations.StatusRegisterLayout := by
  unfold Obligations.StatusRegisterLayout
  intro s rest
  refine ⟨fun hs => ⟨statusWord s, step_readRegister (by decide) (by decide) hs rfl, ?_⟩,
    fun v hs => step_writeRegister (by decide) (by decide) (by decide) hs⟩
  obtain ⟨hbusy, hdone, hresult, hphase, hriff, hmode, hzero⟩ := statusWord_fields s
  simp [hbusy, hdone, hresult, hphase, hriff, hmode, hzero]

/-- The fields of INFO (R44). -/
theorem infoWord_fields (h : Hdr) :
    (infoWord h).extractLsb' 0 2 = h.vcode ∧ (infoWord h).extractLsb' 2 2 = h.lcode ∧
    (infoWord h).extractLsb' 4 2 = h.cmcode ∧ (infoWord h).extractLsb' 6 1 = BitVec.ofBool h.crcPresent ∧
    (infoWord h).extractLsb' 7 1 = BitVec.ofBool h.padding ∧ (infoWord h).extractLsb' 8 24 = 0#24 := by
  refine ⟨?_, ?_, ?_, ?_, ?_, ?_⟩ <;> rw [infoWord] <;> repeat rw [BitVec.extractLsb'_append_eq_of_le (by decide)]
  case refine_6 => exact BitVec.extractLsb'_eq_self
  all_goals exact extract_low _ _

/-- Settles O48: the six registers have a value exactly while the results are valid, each field in its place. -/
theorem resultRegistersAreReadableExactlyAfterAFrame : Obligations.ResultRegistersAreReadableExactlyAfterAFrame := by
  unfold Obligations.ResultRegistersAreReadableExactlyAfterAFrame
  intro s offset rest hs
  refine ⟨fun hdone hbusy hresult => ?_, fun hnot hmem => ?_⟩
  · have hv : resultsValid s = true := (resultsValid_iff s).2 ⟨hdone, hbusy, hresult⟩
    refine ⟨?_, ?_, ?_, ?_, ?_, ?_⟩ <;> rintro rfl
    · exact step_readRegister (by decide) (by decide) hs (resultRegister_valid hv)
    · refine ⟨infoWord s.hdr, step_readRegister (by decide) (by decide) hs (resultRegister_valid hv), ?_⟩
      obtain ⟨hvc, hlc, hcm, hcrc, hpad, hzero⟩ := infoWord_fields s.hdr
      simp [hvc, hlc, hcm, hcrc, hpad, hzero]
    all_goals
      exact ⟨_, step_readRegister (by decide) (by decide) hs (resultRegister_valid hv),
        BitVec.toNat_setWidth_of_le (by decide)⟩
  · have hv : ¬ resultsValid s = true := mt (resultsValid_iff s).1 hnot
    simp only [List.mem_cons, List.not_mem_nil, or_false] at hmem
    rcases hmem with rfl | rfl | rfl | rfl | rfl | rfl <;>
      exact step_readRegister_undefined (by decide) (by decide) hs (resultRegister_invalid hv)

/-- Settles O49: after a FULL frame the invariant gives each of its bytes a value in FB. -/
theorem frameBufferIsReadableExactlyAfterAFullFrame : Obligations.FrameBufferIsReadableExactlyAfterAFullFrame := by
  unfold Obligations.FrameBufferIsReadableExactlyAfterAFullFrame
  intro s i rest hinv hi hs
  refine ⟨fun hdone hbusy hresult hmode hlt => ?_, fun hnot => ?_⟩
  · have hv : resultsValid s = true := (resultsValid_iff s).2 ⟨hdone, hbusy, hresult⟩
    obtain ⟨hread, _⟩ := hinv.frameStored hv hmode
    obtain ⟨b, hb⟩ := Option.isSome_iff_exists.1 (hread i hlt)
    exact ⟨b, hb, _, step_readFb hi hs ((if_pos ⟨hv, hmode, hlt⟩).trans hb), BitVec.toNat_setWidth_of_le (by decide)⟩
  · refine step_readFb_undefined hi hs (if_neg fun ⟨hv, hmode, hlt⟩ => ?_)
    obtain ⟨hdone, hbusy, hresult⟩ := (resultsValid_iff s).1 hv
    exact hnot ⟨hdone, hbusy, hresult, hmode, hlt⟩

end Sys2Proof.Machine

/-! # The memory family (20_memory.md)

The host accesses that are faults. -/

namespace Sys2Proof.Machine

/-- Settles O51: outside the FB window only an aligned word is an access, inside it only a byte. -/
theorem badHostAccessFaults : Obligations.BadHostAccessFaults := by
  unfold Obligations.BadHostAccessFaults
  rintro s offset width v rest (⟨hout, hbad⟩ | ⟨hlo, hhi, hbyte⟩)
  · have hfb := not_inFbWindow hout
    have hword : ¬ wordAccess offset width = true := by
      rw [wordAccess_iff]
      omega
    exact ⟨fun hs => by rw [step_hostRead hs, hostRead, if_neg hfb, if_neg hword],
      fun hs => by rw [step_hostWrite hs, hostWrite, if_neg hfb, if_neg hword]⟩
  · have hfb := (inFbWindow_iff offset).2 ⟨hlo, hhi⟩
    exact ⟨fun hs => by rw [step_hostRead hs, hostRead, if_pos hfb, if_neg hbyte],
      fun hs => by rw [step_hostWrite hs, hostWrite, if_pos hfb, if_neg hbyte]⟩

end Sys2Proof.Machine

/-! # The encoding family (30_encoding.md)

Decoding and encoding as inverses, the header classes by mask and match, and which header words are invalid. -/

namespace Sys2Proof

variable {h h' : Word} {v : Version} {l : Layer}

/-! ### Decoding what was encoded -/

theorem exists_versionOf_iff {c : BitVec 2} : (∃ v, versionOf c = some v) ↔ c ≠ 0b01#2 := by
  rw [Ne, ← versionOf_eq_none, ← Ne, Option.ne_none_iff_exists']

theorem exists_layerOf_iff {c : BitVec 2} : (∃ l, layerOf c = some l) ↔ c ≠ 0b00#2 := by
  rw [Ne, ← layerOf_eq_none, ← Ne, Option.ne_none_iff_exists']

theorem encode_classInstr (v : Version) (l : Layer) (f : HdrFields) :
    encode (classInstr v l f) = encodeClass v l f := by cases v <;> cases l <;> rfl

theorem port_classInstr (v : Version) (l : Layer) (f : HdrFields) : (classInstr v l f).port = .header := by
  cases v <;> cases l <;> rfl

theorem wf_classInstr (v : Version) (l : Layer) (f : HdrFields) : (classInstr v l f).wf = true := by
  cases v <;> cases l <;> rfl

/-- A word with the codes of a version and a layer is of their class (R88). -/
theorem decodeHeader_of_codes (hs : syncBits h = 0x7FF#11) (hv : verBits h = versionCode v)
    (hl : layBits h = layerCode l) : decodeHeader h = classInstr v l (fieldsOf h) := by
  simp [decodeHeader, hs, hv, hl]

theorem decodeHeader_encodeClass (v : Version) (l : Layer) (f : HdrFields) :
    decodeHeader (encodeClass v l f) = classInstr v l f := by
  rw [decodeHeader_of_codes (syncBits_encodeClass v l f) (verBits_encodeClass v l f) (layBits_encodeClass v l f),
    fieldsOf_encodeClass]

theorem decodeHeader_noSync_word {sync : BitVec 11} (rest : BitVec 21) (hs : sync ≠ 0x7FF#11) :
    decodeHeader (sync ++ rest) = .rejectNoSync sync rest := by
  have hsync : syncBits (sync ++ rest) = sync := extract_high sync rest
  have hrest : (sync ++ rest : Word).extractLsb' 0 21 = rest := extract_low sync rest
  rw [decodeHeader, hsync, if_neg hs, hrest]

theorem decodeHeader_reservedVersion_word (rest : BitVec 19) :
    decodeHeader (0x7FF#11 ++ 0b01#2 ++ rest) = .rejectReservedVersion rest := by
  obtain ⟨hs, hv⟩ := reservedVersion_fields rest
  have hrest : (0x7FF#11 ++ 0b01#2 ++ rest : Word).extractLsb' 0 19 = rest := extract_low _ rest
  rw [decodeHeader, if_pos hs, hv, versionOf_eq_none.2 rfl, hrest]

theorem decodeHeader_reservedLayer_word {ver : BitVec 2} (rest : BitVec 17) (hv : ver ≠ 0b01#2) :
    decodeHeader (0x7FF#11 ++ ver ++ 0b00#2 ++ rest) = .rejectReservedLayer ver rest := by
  obtain ⟨hs, hver, hl⟩ := reservedLayer_fields ver rest
  have hrest : (0x7FF#11 ++ ver ++ 0b00#2 ++ rest : Word).extractLsb' 0 17 = rest := extract_low _ rest
  obtain ⟨v, hv'⟩ := exists_versionOf_iff.2 hv
  rw [decodeHeader, if_pos hs, hver, hv', hl, layerOf_eq_none.2 rfl, hrest]

/-- Settles O2: each field is read back from its place in the word. -/
theorem decodeOfEncodeIsIdentity : Obligations.DecodeOfEncodeIsIdentity := by
  unfold Obligations.DecodeOfEncodeIsIdentity
  intro i hwf
  cases i with
  | hdrV1LI f | hdrV1LII f | hdrV1LIII f | hdrV2LI f | hdrV2LII f | hdrV2LIII f
  | hdrV25LI f | hdrV25LII f | hdrV25LIII f => exact decodeHeader_encodeClass _ _ f
  | rejectNoSync sync rest => exact decodeHeader_noSync_word rest (bne_iff_ne.1 hwf)
  | rejectReservedVersion rest => exact decodeHeader_reservedVersion_word rest
  | rejectReservedLayer ver rest => exact decodeHeader_reservedLayer_word rest (bne_iff_ne.1 hwf)
  | nop ign | nextFrame ign | nextHeader ign | cmdReserved ign =>
    simp [Instr.port, encode, decode, decodeCommand]

/-! ### Encoding what was decoded -/

/-- A word of 11, 2 and 19 bits. -/
theorem word_eq_sync_ver_rest (h : Word) : syncBits h ++ verBits h ++ h.extractLsb' 0 19 = h := by
  rw [syncBits, verBits, BitVec.extractLsb'_append_extractLsb'_eq_extractLsb' (by decide),
    BitVec.extractLsb'_append_extractLsb'_eq_extractLsb' (by decide)]
  exact BitVec.extractLsb'_eq_self

/-- A word of 11, 2, 2 and 17 bits. -/
theorem word_eq_codes_rest (h : Word) : syncBits h ++ verBits h ++ layBits h ++ h.extractLsb' 0 17 = h := by
  rw [← classBits_eq, BitVec.extractLsb'_append_extractLsb'_eq_extractLsb' (by decide)]
  exact BitVec.extractLsb'_eq_self

theorem encode_decodeHeader (h : Word) : encode (decodeHeader h) = h := by
  rcases decodeHeader_cases h with ⟨_, e⟩ | ⟨hs, hv, e⟩ | ⟨hs, _, hl, e⟩ | ⟨v, l, hs, hv, hl, e⟩ <;> rw [e]
  · exact (word_eq_split h 11 21 rfl).symm
  · rw [encode, ← hs, ← hv]
    exact word_eq_sync_ver_rest h
  · rw [encode, ← hs, ← hl]
    exact word_eq_codes_rest h
  · rw [encode_classInstr, encodeClass_fieldsOf v l hs hv hl]

theorem port_wf_decodeHeader (h : Word) : (decodeHeader h).port = .header ∧ (decodeHeader h).wf = true := by
  rcases decodeHeader_cases h with ⟨hs, e⟩ | ⟨_, _, e⟩ | ⟨_, hv, _, e⟩ | ⟨v, l, _, _, _, e⟩ <;> rw [e]
  · exact ⟨rfl, bne_iff_ne.2 hs⟩
  · exact ⟨rfl, rfl⟩
  · exact ⟨rfl, bne_iff_ne.2 hv⟩
  · exact ⟨port_classInstr .., wf_classInstr ..⟩

/-- A command word is its ignored bits over its code (R90). -/
theorem command_word_eq (w : Word) : w.extractLsb' 2 30 ++ w.extractLsb' 0 2 = w := (word_eq_split w 30 2 rfl).symm

/-- What a CMD word decodes to is a well-formed command whose word it is (R90). -/
theorem encode_decodeCommand (w : Word) :
    encode (decodeCommand w) = w ∧ (decodeCommand w).port = .command ∧ (decodeCommand w).wf = true := by
  have hw := command_word_eq w
  have hc : ∀ c : BitVec 2, c = 0b00#2 ∨ c = 0b01#2 ∨ c = 0b10#2 ∨ c = 0b11#2 := by decide
  rcases hc (w.extractLsb' 0 2) with h | h | h | h <;> rw [h] at hw <;>
    exact ⟨by simpa [decodeCommand, h, encode] using hw, by simp [decodeCommand, h, Instr.port],
      by simp [decodeCommand, h, Instr.wf]⟩

/-- Settles O3: each port's decoder keeps every bit of the word. -/
theorem encodeOfDecodeIsIdentity : Obligations.EncodeOfDecodeIsIdentity := by
  unfold Obligations.EncodeOfDecodeIsIdentity
  intro p w
  cases p with
  | header => exact ⟨encode_decodeHeader w, port_wf_decodeHeader w⟩
  | command => exact encode_decodeCommand w

/-- A word of a class is the encoding of the class's fields. -/
theorem eq_encodeClass_of_decodeHeader {f : HdrFields} (e : decodeHeader h = classInstr v l f) :
    h = encodeClass v l f := by
  rw [← encode_classInstr, ← e, encode_decodeHeader]

/-! ### Masks and matches (R88) -/

theorem append_eq_append_iff {n m : Nat} {a a' : BitVec n} {b b' : BitVec m} :
    a ++ b = a' ++ b' ↔ a = a' ∧ b = b' := by
  refine ⟨fun e => ⟨?_, ?_⟩, fun ⟨ha, hb⟩ => by rw [ha, hb]⟩
  · rw [← extract_high a b, e, extract_high]
  · rw [← extract_low a b, e, extract_low]

/-- Words that agree under a mask agree in every field the mask covers. -/
theorem extract_eq_of_and_eq {m : Word} {k n : Nat} (e : h &&& m = h' &&& m)
    (hm : m.extractLsb' k n = BitVec.allOnes n) : h.extractLsb' k n = h'.extractLsb' k n := by
  have := congrArg (BitVec.extractLsb' k n) e
  simpa [BitVec.extractLsb'_and, hm] using this

/-- The mask of the nine classes compares the three codes. -/
theorem classMask_eq_iff {c : Word} (hc : c.extractLsb' 17 15 = 0x7FF#11 ++ versionCode v ++ layerCode l)
    (hz : ∀ i, i < 17 → c.getLsbD i = false) :
    h &&& 0xFFFE0000#32 = c ↔ syncBits h = 0x7FF#11 ∧ verBits h = versionCode v ∧ layBits h = layerCode l := by
  rw [and_highMask_eq_iff _ _ _ 17 15 rfl (by decide) hz, hc, classBits_eq, append_eq_append_iff,
    append_eq_append_iff, and_assoc]

/-- The mask of the no-sync class compares the sync field. -/
theorem syncMask_eq_iff : h &&& 0xFFE00000#32 = 0xFFE00000#32 ↔ syncBits h = 0x7FF#11 :=
  and_highMask_eq_iff _ _ _ 21 11 rfl (by decide) (by decide)

/-- The mask of the reserved-version class compares the sync field and the version code. -/
theorem versionMask_eq_iff :
    h &&& 0xFFF80000#32 = 0xFFE80000#32 ↔ syncBits h = 0x7FF#11 ∧ verBits h = 0b01#2 := by
  have hcodes : h.extractLsb' 19 13 = syncBits h ++ verBits h :=
    (BitVec.extractLsb'_append_extractLsb'_eq_extractLsb' (by decide : 21 = 19 + 2)).symm
  rw [and_highMask_eq_iff _ _ _ 19 13 rfl (by decide) (by decide), hcodes,
    show (0xFFE80000#32).extractLsb' 19 13 = 0x7FF#11 ++ 0b01#2 by decide, append_eq_append_iff]

/-- The mask of the reserved-layer class compares the sync field and the layer code. -/
theorem layerMask_eq_iff :
    h &&& 0xFFE60000#32 = 0xFFE00000#32 ↔ syncBits h = 0x7FF#11 ∧ layBits h = 0b00#2 := by
  constructor
  · intro e
    have e : h &&& 0xFFE60000#32 = 0xFFE00000#32 &&& 0xFFE60000#32 := e
    exact ⟨extract_eq_of_and_eq e (by decide), extract_eq_of_and_eq e (by decide)⟩
  · rintro ⟨hs, hl⟩
    have hver : verBits (h &&& 0xFFE60000#32) = 0b00#2 := by
      rw [verBits, BitVec.extractLsb'_and, show (0xFFE60000#32).extractLsb' 19 2 = 0#2 by decide, BitVec.and_zero]
    have hrest : (h &&& 0xFFE60000#32).extractLsb' 0 17 = 0#17 := by
      rw [BitVec.extractLsb'_and, show (0xFFE60000#32).extractLsb' 0 17 = 0#17 by decide, BitVec.and_zero]
    have hsync : syncBits (h &&& 0xFFE60000#32) = 0x7FF#11 := by
      rw [syncBits, BitVec.extractLsb'_and, show h.extractLsb' 21 11 = 0x7FF#11 from hs]
      decide
    have hlay : layBits (h &&& 0xFFE60000#32) = 0b00#2 := by
      rw [layBits, BitVec.extractLsb'_and, show h.extractLsb' 17 2 = 0b00#2 from hl, BitVec.zero_and]
    rw [← word_eq_codes_rest (h &&& 0xFFE60000#32), hsync, hver, hlay, hrest]
    decide

/-- The words of a class by its mask and match. -/
theorem decodeHeader_class_iff {c : Word} (hc : c.extractLsb' 17 15 = 0x7FF#11 ++ versionCode v ++ layerCode l)
    (hz : ∀ i, i < 17 → c.getLsbD i = false) :
    (∃ f, decodeHeader h = classInstr v l f) ↔ h &&& 0xFFFE0000#32 = c := by
  rw [classMask_eq_iff hc hz]
  constructor
  · rintro ⟨f, e⟩
    rw [eq_encodeClass_of_decodeHeader e]
    simp
  · rintro ⟨hs, hv, hl⟩
    exact ⟨_, decodeHeader_of_codes hs hv hl⟩

theorem decodeHeader_noSync_iff : (∃ a b, decodeHeader h = .rejectNoSync a b) ↔ syncBits h ≠ 0x7FF#11 := by
  rcases decodeHeader_cases h with ⟨hs, e⟩ | ⟨hs, _, e⟩ | ⟨hs, _, _, e⟩ | ⟨v, l, hs, _, _, e⟩ <;>
    simp [e, hs, classInstr_ne_reject]

theorem decodeHeader_reservedVersion_iff :
    (∃ a, decodeHeader h = .rejectReservedVersion a) ↔ syncBits h = 0x7FF#11 ∧ verBits h = 0b01#2 := by
  rcases decodeHeader_cases h with ⟨hs, e⟩ | ⟨hs, hv, e⟩ | ⟨hs, hv, _, e⟩ | ⟨v, l, hs, hv, _, e⟩
  · simp [e, hs]
  · simp [e, hs, hv]
  · simp [e, hv]
  · simp [e, classInstr_ne_reject, versionOf_eq_some hv, versionCode_ne_reserved]

theorem decodeHeader_reservedLayer_iff :
    (∃ a b, decodeHeader h = .rejectReservedLayer a b) ↔
      syncBits h = 0x7FF#11 ∧ verBits h ≠ 0b01#2 ∧ layBits h = 0b00#2 := by
  rcases decodeHeader_cases h with ⟨hs, e⟩ | ⟨hs, hv, e⟩ | ⟨hs, hv, hl, e⟩ | ⟨v, l, hs, _, hl, e⟩
  · simp [e, hs]
  · simp [e, hv]
  · simp [e, hs, hv, hl]
  · simp [e, classInstr_ne_reject, layerOf_eq_some hl, layerCode_ne_reserved]

end Sys2Proof

namespace Sys2Proof.Machine

variable {h h' : Word} {v : Version} {l : Layer}

/-! ### Which header words are invalid (R87) -/

/-- The decoder unit decodes a word of a class as the class (R109). -/
theorem decodeUnit_of_class (c : Config) {f : HdrFields} (e : decodeHeader h = classInstr v l f) :
    decodeUnit c h = decodeClass c v l f := by
  rw [eq_encodeClass_of_decodeHeader e, decodeUnit_encodeClass]

/-- The decoder unit answers INVALID on a word of no class (R87 rows 1 to 3). -/
theorem decodeUnit_of_not_class (c : Config) (hn : ∀ v l f, decodeHeader h ≠ classInstr v l f) :
    decodeUnit c h = none := by
  rw [Option.eq_none_iff_forall_ne_some]
  intro d e
  obtain ⟨v, l, hw, _⟩ := decodeUnit_some e
  exact hn v l (fieldsOf h) (by rw [← decodeHeader_encodeClass, hw])

/-- A class is INVALID exactly for the field values of R87 rows 4 to 6. -/
theorem decodeClass_eq_none_iff (c : Config) (v : Version) (l : Layer) (f : HdrFields) :
    decodeClass c v l f = none ↔ f.bri = 0#4 ∨ f.bri = 15#4 ∨ f.sri = 3#2 := by
  refine ⟨fun e => ?_, decodeClass_invalid c v l⟩
  by_contra hf
  rw [not_or, not_or] at hf
  obtain ⟨d, hd⟩ := decodeClass_valid c v l hf.1 hf.2.1 hf.2.2
  exact absurd (hd.symm.trans e) (by simp)

/-- Settles O4: each mask compares the codes that decide the class, and DECODE of a class checks its fields. -/
theorem headerClassesByMaskAndMatch : Obligations.HeaderClassesByMaskAndMatch := by
  unfold Obligations.HeaderClassesByMaskAndMatch
  refine ⟨fun h => ⟨?_, ?_, ?_, ?_, ?_, ?_, ?_, ?_, ?_, ?_, ?_, ?_⟩, fun c h v l f e => ?_,
    fun c h => decodeUnit_of_not_class c⟩
  · exact decodeHeader_class_iff (v := .v1) (l := .i) (by decide) (by decide)
  · exact decodeHeader_class_iff (v := .v1) (l := .ii) (by decide) (by decide)
  · exact decodeHeader_class_iff (v := .v1) (l := .iii) (by decide) (by decide)
  · exact decodeHeader_class_iff (v := .v2) (l := .i) (by decide) (by decide)
  · exact decodeHeader_class_iff (v := .v2) (l := .ii) (by decide) (by decide)
  · exact decodeHeader_class_iff (v := .v2) (l := .iii) (by decide) (by decide)
  · exact decodeHeader_class_iff (v := .v25) (l := .i) (by decide) (by decide)
  · exact decodeHeader_class_iff (v := .v25) (l := .ii) (by decide) (by decide)
  · exact decodeHeader_class_iff (v := .v25) (l := .iii) (by decide) (by decide)
  · rw [decodeHeader_noSync_iff, Ne, Ne, syncMask_eq_iff]
  · rw [decodeHeader_reservedVersion_iff, versionMask_eq_iff]
  · rw [decodeHeader_reservedLayer_iff, decodeHeader_reservedVersion_iff, layerMask_eq_iff]
    by_cases hv : verBits h = 0b01#2 <;> simp [hv]
  · rw [decodeUnit_of_class c e, ← Option.ne_none_iff_isSome, Ne, decodeClass_eq_none_iff, not_or, not_or]

/-- The bitrate table holds 0 exactly at index 0 (R32). -/
theorem romBr_eq_zero_iff (v : Version) (l : Layer) (i : Nat) : romBr v l i = some 0 ↔ i = 0 := by
  constructor
  · intro e
    cases i with
    | zero => rfl
    | succ i =>
      have hpos : ∀ k ∈ (bitrateRow v l).tail, k ≠ 0 := by cases v <;> cases l <;> decide
      rw [romBr, ← List.getElem?_tail] at e
      exact absurd rfl (hpos 0 (List.mem_of_getElem? e))
  · rintro rfl
    cases v <;> cases l <;> rfl

/-- No entry of the tables gives a length above the bound of R133. -/
theorem rawFrameLength_le_maxFrameLen (c : Layer1Coeff) {v : Version} {l : Layer} {i j k r : Nat} (p : Bool)
    (hk : romBr v l i = some k) (hr : romSr v j = some r) :
    rawFrameLength c l (romSpf v l) (k * 1000) r p ≤ maxFrameLen :=
  (rawFrameLength_le c v l p k (romBr_mem hk) r (romSr_mem hr)).trans (by decide)

/-- The two parts of the sync field (R80). -/
theorem syncParts_iff (h : Word) :
    (h.extractLsb' 24 8 ≠ 0xFF#8 ∨ h.extractLsb' 21 3 ≠ 0b111#3) ↔ syncBits h ≠ 0x7FF#11 := by
  have hparts : syncBits h = h.extractLsb' 24 8 ++ h.extractLsb' 21 3 :=
    (BitVec.extractLsb'_append_extractLsb'_eq_extractLsb' (by decide : 24 = 21 + 3)).symm
  rw [hparts, Ne, Ne, Ne, show 0x7FF#11 = 0xFF#8 ++ 0b111#3 by decide, append_eq_append_iff, not_and_or]

/-- The decoder unit answers INVALID exactly for a reserved code or one of the field values of R87 rows 4 to 6. -/
theorem decodeUnit_eq_none_iff (c : Config) (h : Word) : decodeUnit c h = none ↔
    syncBits h ≠ 0x7FF#11 ∨ verBits h = 0b01#2 ∨ layBits h = 0b00#2 ∨ (fieldsOf h).bri = 0#4 ∨
      (fieldsOf h).bri = 15#4 ∨ (fieldsOf h).sri = 3#2 := by
  have hreject (hn : ∀ v l f, classInstr v l f ≠ decodeHeader h) : decodeUnit c h = none :=
    decodeUnit_of_not_class c fun v l f => (hn v l f).symm
  rcases decodeHeader_cases h with ⟨hs, e⟩ | ⟨_, hv, e⟩ | ⟨_, _, hl, e⟩ | ⟨v, l, hs, hv, hl, e⟩
  · simp [hreject fun v l f => e ▸ (classInstr_ne_reject v l f).1 _ _, hs]
  · simp [hreject fun v l f => e ▸ (classInstr_ne_reject v l f).2.1 _, hv]
  · simp [hreject fun v l f => e ▸ (classInstr_ne_reject v l f).2.2 _ _, hl]
  · rw [decodeUnit_of_class c e, decodeClass_eq_none_iff]
    simp [hs, versionOf_eq_some hv, layerOf_eq_some hl, versionCode_ne_reserved, layerCode_ne_reserved]

/-- R87 row 5: where the codes select a table row, its entry is 0 exactly for bitrate index 0. -/
theorem bitrateEntry_zero_iff (h : Word) :
    (∃ v l, versionOf (h.extractLsb' 19 2) = some v ∧ layerOf (h.extractLsb' 17 2) = some l ∧
      romBr v l (h.extractLsb' 12 4).toNat = some 0) ↔
    h.extractLsb' 19 2 ≠ 0b01#2 ∧ h.extractLsb' 17 2 ≠ 0b00#2 ∧ h.extractLsb' 12 4 = 0#4 := by
  have hzero : (h.extractLsb' 12 4).toNat = 0 ↔ h.extractLsb' 12 4 = 0#4 := BitVec.toNat_inj (y := 0#4)
  simp only [romBr_eq_zero_iff, hzero, ← exists_versionOf_iff, ← exists_layerOf_iff]
  constructor
  · rintro ⟨v, l, hv, hl, hb⟩
    exact ⟨⟨v, hv⟩, ⟨l, hl⟩, hb⟩
  · rintro ⟨⟨v, hv⟩, ⟨l, hl⟩, hb⟩
    exact ⟨v, l, hv, hl, hb⟩

/-- R87 row 7: no header's length is above the bound. -/
theorem no_length_above_maxFrameLen (c : Config) (h : Word) :
    ¬ ∃ v l k r, versionOf (h.extractLsb' 19 2) = some v ∧ layerOf (h.extractLsb' 17 2) = some l ∧
      romBr v l (h.extractLsb' 12 4).toNat = some k ∧ romSr v (h.extractLsb' 10 2).toNat = some r ∧
      maxFrameLen < rawFrameLength c.layer1Coeff l (romSpf v l) (k * 1000) r (decPadding (h.extractLsb' 9 1)) := by
  rintro ⟨v, l, k, r, _, _, hk, hr, hlen⟩
  exact absurd (rawFrameLength_le_maxFrameLen c.layer1Coeff _ hk hr) (Nat.not_le.2 hlen)

/-- Settles O7: row 5 is bitrate index 0 where the codes are not reserved, and row 7 never applies. -/
theorem headerInvalidExactlyWhen : Obligations.HeaderInvalidExactlyWhen := by
  unfold Obligations.HeaderInvalidExactlyWhen
  refine ⟨fun c h => ?_, romBr_eq_zero_iff, fun c v l i j k r p => rawFrameLength_le_maxFrameLen c p⟩
  rw [decodeUnit_eq_none_iff, syncParts_iff, bitrateEntry_zero_iff, eq_false (no_length_above_maxFrameLen c h)]
  simp only [verBits, layBits, fieldsOf]
  tauto

/-! ### The ignored bits (R82) -/

/-- The ignored bits of a class change nothing of its decoded header but the word. -/
theorem decodeClass_ignored (c : Config) (v : Version) (l : Layer) (f : HdrFields) (a : BitVec 1) (b : BitVec 6) :
    decodeClass c v l { f with ignA := a, ignB := b } =
      (decodeClass c v l f).map fun d => { d with word := encodeClass v l { f with ignA := a, ignB := b } } := by
  unfold decodeClass
  dsimp only
  cases decBitrate v l f.bri with
  | none => rfl
  | some bitRate =>
    cases decSampleRate v f.sri with
    | none => rfl
    | some sampleRate =>
      dsimp only
      cases frameLength c.layer1Coeff l (romSpf v l) bitRate sampleRate (decPadding f.pad) <;> rfl

/-- What the mask of R82 leaves of a header word: its codes and the fields the decoder reads. -/
theorem codes_fieldsOf_eq_of_mask (e : h &&& 0xFFFFFEC0#32 = h' &&& 0xFFFFFEC0#32) :
    syncBits h' = syncBits h ∧ verBits h' = verBits h ∧ layBits h' = layBits h ∧
    fieldsOf h' = { fieldsOf h with ignA := (fieldsOf h').ignA, ignB := (fieldsOf h').ignB } := by
  refine ⟨extract_eq_of_and_eq e.symm (by decide), extract_eq_of_and_eq e.symm (by decide),
    extract_eq_of_and_eq e.symm (by decide), ?_⟩
  rw [fieldsOf, fieldsOf, HdrFields.mk.injEq]
  refine ⟨?_, ?_, ?_, ?_, rfl, ?_, rfl⟩ <;> exact extract_eq_of_and_eq e.symm (by decide)

/-- Settles O8: the mask keeps the codes, which decide the class, and every field DECODE reads. -/
theorem ignoredHeaderBitsChangeOnlyTheWord : Obligations.IgnoredHeaderBitsChangeOnlyTheWord := by
  unfold Obligations.IgnoredHeaderBitsChangeOnlyTheWord
  intro c h h' e
  obtain ⟨hs, hv, hl, hf⟩ := codes_fieldsOf_eq_of_mask e
  cases hd : decodeUnit c h with
  | none =>
    have hbri : (fieldsOf h').bri = (fieldsOf h).bri := by rw [hf]
    have hsri : (fieldsOf h').sri = (fieldsOf h).sri := by rw [hf]
    rw [decodeUnit_eq_none_iff] at hd
    rw [Option.map_none, decodeUnit_eq_none_iff, hs, hv, hl, hbri, hsri]
    exact hd
  | some d =>
    obtain ⟨v, l, hw, hd⟩ := decodeUnit_some hd
    have hw' : encodeClass v l (fieldsOf h') = h' := by
      refine encodeClass_fieldsOf v l ?_ ?_ ?_
      · rw [hs, ← hw, syncBits_encodeClass]
      · rw [hv, ← hw, verBits_encodeClass, versionOf_versionCode]
      · rw [hl, ← hw, layBits_encodeClass, layerOf_layerCode]
    calc decodeUnit c h' = decodeClass c v l (fieldsOf h') := by rw [← decodeUnit_encodeClass, hw']
      _ = (decodeClass c v l (fieldsOf h)).map fun d => { d with word := encodeClass v l (fieldsOf h') } := by
        rw [hf, decodeClass_ignored]
      _ = (some d).map fun d => { d with word := h' } := by rw [hd, hw']

/-! ### Words of the tables, and what a word does -/

/-- Settles O1: ten fixed words, decoded by evaluation. -/
theorem tableWordsDecode : Obligations.TableWordsDecode := by
  unfold Obligations.TableWordsDecode
  decide

/-- Settles O14: each of these words is an INVALID candidate. -/
theorem invalidHeaderShiftsTheWindow : Obligations.InvalidHeaderShiftsTheWindow := by
  unfold Obligations.InvalidHeaderShiftsTheWindow
  refine fun s => ⟨fun v l f hf => ?_, fun a b => rfl, fun a => rfl, fun a b => rfl⟩
  rw [exec_classInstr, decodeClass_invalid s.cfg v l hf]
  rfl

/-- Settles O20: the write is taken off the inputs and its word run as a command. -/
theorem stepRunsTheWrittenCommand : Obligations.StepRunsTheWrittenCommand := by
  unfold Obligations.StepRunsTheWrittenCommand
  rintro s v rest _ hs rfl
  rw [step_hostWrite hs, hostWrite_cmd]

end Sys2Proof.Machine

namespace Sys2Proof.Machine

/-! ### What a decoded header holds (R101 to R109, R130 to R132) -/

variable {c : Config} {v : Version} {l : Layer} {f : HdrFields} {h : Hdr} {k r : Nat}

/-- The bitrate register is wide enough for every table entry (R25). -/
theorem toNat_bitRate (hk : romBr v l f.bri.toNat = some k) : (BitVec.ofNat 19 (k * 1000)).toNat = k * 1000 := by
  have hle := bitrateRow_le v l k (romBr_mem hk)
  rw [BitVec.toNat_ofNat, Nat.mod_eq_of_lt (by omega)]

/-- The sample-rate register is wide enough for every table entry (R25). -/
theorem toNat_sampleRate (hr : romSr v f.sri.toNat = some r) : (BitVec.ofNat 16 r).toNat = r := by
  have hrange := sampleRateRow_range v r (romSr_mem hr)
  rw [BitVec.toNat_ofNat, Nat.mod_eq_of_lt (by omega)]

/-- The sample-count register is wide enough for every table entry (R25). -/
theorem toNat_sampleCount (v : Version) (l : Layer) : (BitVec.ofNat 11 (romSpf v l)).toNat = romSpf v l := by
  have hvalues := romSpf_values v l
  rw [BitVec.toNat_ofNat, Nat.mod_eq_of_lt (by omega)]

/-- The frame-length register is wide enough for every length of the tables (R25, R135). -/
theorem toNat_rawFrameLength (c : Layer1Coeff) (p : Bool) (hk : romBr v l f.bri.toNat = some k)
    (hr : romSr v f.sri.toNat = some r) :
    (BitVec.ofNat 15 (rawFrameLength c l (romSpf v l) (k * 1000) r p)).toNat =
      rawFrameLength c l (romSpf v l) (k * 1000) r p := by
  have hle := rawFrameLength_le c v l p k (romBr_mem hk) r (romSr_mem hr)
  rw [BitVec.toNat_ofNat, Nat.mod_eq_of_lt (by omega)]

/-- The numbers of a decoded header are those of the tables (R104, R105, R108, R130 to R132). -/
theorem decodeClass_numbers (e : decodeClass c v l f = some h) :
    ∃ k r, romBr v l f.bri.toNat = some k ∧ 0 < k ∧ romSr v f.sri.toNat = some r ∧
      h.bitRate.toNat = k * 1000 ∧ h.sampleRate.toNat = r ∧ h.sampleCount.toNat = romSpf v l ∧
      h.frameLengthBytes.toNat =
        rawFrameLength c.layer1Coeff l (romSpf v l) (k * 1000) r (decPadding f.pad) := by
  rcases decodeClass_cases c v l f with ⟨_, hnone⟩ | ⟨_, _, _, k, r, hk, hpos, hr, hsome⟩
  · exact absurd (hnone.symm.trans e) (by simp)
  · obtain rfl := Option.some.inj (hsome.symm.trans e)
    exact ⟨k, r, hk, hpos, hr, toNat_bitRate hk, toNat_sampleRate hr, toNat_sampleCount v l,
      toNat_rawFrameLength _ _ hk hr⟩

/-- The class, the codes and the flags of a decoded header are those of the instruction (R101 to R103, R106, R107). -/
theorem decodeClass_codes (e : decodeClass c v l f = some h) :
    h.version = v ∧ h.vcode = versionCode v ∧ h.layer = l ∧ h.lcode = layerCode l ∧
    h.channelMode = decChannelMode f.chm ∧ h.cmcode = f.chm ∧ h.crcPresent = decCrc f.prot ∧
    h.padding = decPadding f.pad ∧ h.word = encodeClass v l f := by
  rcases decodeClass_cases c v l f with ⟨_, hnone⟩ | ⟨_, _, _, k, r, _, _, _, hsome⟩
  · exact absurd (hnone.symm.trans e) (by simp)
  · obtain rfl := Option.some.inj (hsome.symm.trans e)
    exact ⟨rfl, rfl, rfl, rfl, rfl, rfl, rfl, rfl, rfl⟩

theorem decCrc_iff (prot : BitVec 1) : decCrc prot = true ↔ prot = 0#1 := beq_iff_eq

theorem decPadding_iff (pad : BitVec 1) : decPadding pad = true ↔ pad = 1#1 := beq_iff_eq

/-- The padding slot is the padding bit as a number (R106). -/
theorem toNat_decPadding (pad : BitVec 1) : (decPadding pad).toNat = pad.toNat := by
  revert pad
  decide

/-- The two formulas of R131 and R132, by the layer and the Layer I constant. -/
theorem rawFrameLength_eq_ite (c : Layer1Coeff) (l : Layer) (n b r : Nat) (p : Bool) :
    rawFrameLength c l n b r p =
      if l = .i then ((if c = .doc then n / 8 else 12) * b / r + p.toNat) * 4 else n / 8 * b / r + p.toNat := by
  cases l with
  | i => cases c <;> rfl
  | ii => rfl
  | iii => rfl

/-- Every table entry of R33 is one of the nine sample rates of R112. -/
theorem sampleRateRow_subset (v : Version) :
    sampleRateRow v ⊆ [44100, 48000, 32000, 22050, 24000, 16000, 11025, 12000, 8000] := by
  cases v <;> decide

/-- Settles O6: a word of a class is that class's encoding, and the decoder unit accepts no other word. -/
theorem decoderUnitAgreesWithTheClasses : Obligations.DecoderUnitAgreesWithTheClasses := by
  unfold Obligations.DecoderUnitAgreesWithTheClasses
  exact fun c h => ⟨fun v l f => decodeUnit_of_class c, decodeUnit_of_not_class c⟩

/-- Settles O9: the table values of the fields, each below the width of its register. -/
theorem decodedFieldsFollowTheTables : Obligations.DecodedFieldsFollowTheTables := by
  unfold Obligations.DecodedFieldsFollowTheTables
  intro c v l f h e
  obtain ⟨k, r, hk, _, hr, hbitRate, hsampleRate, hsampleCount, hlen⟩ := decodeClass_numbers e
  obtain ⟨hversion, hvcode, hlayer, hlcode, hmode, hcmcode, hcrc, hpad, hword⟩ := decodeClass_codes e
  rw [rawFrameLength_eq_ite, toNat_decPadding] at hlen
  exact ⟨k, r, hk, hr, hversion, hvcode, hlayer, hlcode, hbitRate, hsampleRate, hmode, hcmcode,
    hcrc ▸ decCrc_iff f.prot, hpad ▸ decPadding_iff f.pad, hsampleCount, hword, hlen⟩

/-- Settles O10: the invariants hold of every table entry a decoded header can take. -/
theorem validHeadersMeetTheFrameInvariants : Obligations.ValidHeadersMeetTheFrameInvariants := by
  unfold Obligations.ValidHeadersMeetTheFrameInvariants
  intro c w h e
  obtain ⟨v, l, _, hd⟩ := decodeUnit_some e
  obtain ⟨k, r, _, hpos, hr, hbitRate, hsampleRate, hsampleCount, _⟩ := decodeClass_numbers hd
  obtain ⟨hversion, _, hlayer, _⟩ := decodeClass_codes hd
  obtain ⟨hge, hle, _⟩ := decodeClass_some hd
  refine ⟨?_, ?_, ?_, hge, hle.trans (by decide), hle⟩
  · rw [hbitRate]
    exact Nat.mul_pos hpos (by decide)
  · rw [hsampleRate]
    exact sampleRateRow_subset v (romSr_mem hr)
  · rw [hsampleCount, hversion, hlayer]

/-- Settles O5: one fixed word, decoded by evaluation. -/
theorem scenarioOneHeaderDecodes : Obligations.ScenarioOneHeaderDecodes := by
  unfold Obligations.ScenarioOneHeaderDecodes
  decide

end Sys2Proof.Machine

namespace Sys2Proof.Machine

/-! ### The frame-length arithmetic on the tables (R134, R135) -/

/-- The largest product is 144 times 384 kbit/s, of Layer II (R134). -/
theorem flenCoeff_mul_le (v : Version) (l : Layer) :
    ∀ k ∈ bitrateRow v l, flenCoeff (romSpf v l) * (k * 1000) ≤ 55296000 := by
  cases v <;> cases l <;> decide

/-- The largest quotient is 144 times 160 kbit/s over 8000 Hz, of Layer II (R134). -/
theorem flenCoeff_mul_div_le (v : Version) (l : Layer) :
    ∀ k ∈ bitrateRow v l, ∀ r ∈ sampleRateRow v, flenCoeff (romSpf v l) * (k * 1000) / r ≤ 2880 := by
  cases v <;> cases l <;> decide

theorem romSpf_layerI (v : Version) : romSpf v .i = 384 := by cases v <;> rfl

/-- The quotient under the ISO constant, at the largest bitrate and the smallest sample rate (R131). -/
theorem isoConstant_quotient_le {v : Version} {l : Layer} {k r : Nat} (hk : k ∈ bitrateRow v l)
    (hr : r ∈ sampleRateRow v) : 12 * (k * 1000) / r ≤ 672 := by
  have hle := bitrateRow_le v l k hk
  obtain ⟨hge, _⟩ := sampleRateRow_range v r hr
  exact Nat.div_le_of_le_mul (by omega)

/-- Under the ISO constant the longest frames are of Layer II: Layer I stays at `(672 + 1) * 4` or less (R135). -/
theorem rawFrameLength_iso_le {v : Version} {l : Layer} {k r : Nat} (p : Bool) (hk : k ∈ bitrateRow v l)
    (hr : r ∈ sampleRateRow v) : rawFrameLength .iso l (romSpf v l) (k * 1000) r p ≤ 2881 := by
  have hpad := Bool.toNat_le p
  have hquot := flenCoeff_mul_div_le v l k hk r hr
  cases l with
  | i =>
    have hiso := isoConstant_quotient_le hk hr
    simp only [rawFrameLength, layer1Constant]
    omega
  | ii | iii => exact Nat.add_le_add hquot hpad

/-- The decoder unit reads nothing of the configuration but the Layer I constant (R6, R131). -/
theorem decodeUnit_eq_default (c : Config) (w : Word) :
    decodeUnit c w = decodeUnit { Config.default with layer1Coeff := c.layer1Coeff } w := rfl

/-- Settles O11: the bounds hold of every table entry a decoded header can take; the three headers by evaluation. -/
theorem frameLengthRange : Obligations.FrameLengthRange := by
  unfold Obligations.FrameLengthRange
  refine ⟨fun c w h e => ?_, fun c => rfl, ?_, ?_⟩
  · obtain ⟨v, l, _, hd⟩ := decodeUnit_some e
    obtain ⟨hge, hle, _⟩ := decodeClass_some hd
    obtain ⟨k, r, hk, _, hr, _, _, _, hlen⟩ := decodeClass_numbers hd
    refine ⟨hge, fun _ => hle, fun hiso => ?_, hle.trans (by decide), by omega⟩
    rw [hlen, hiso]
    exact rawFrameLength_iso_le _ (romBr_mem hk) (romSr_mem hr)
  · intro c hdoc
    rw [decodeUnit_eq_default, hdoc]
    decide
  · intro c hiso
    rw [decodeUnit_eq_default, hiso]
    decide

/-- Settles O12: the largest product and quotient of the tables, and for Layer I its largest bitrate. -/
theorem frameLengthArithmeticFits : Obligations.FrameLengthArithmeticFits := by
  unfold Obligations.FrameLengthArithmeticFits
  intro v l i j k r hk hr
  have hbr := romBr_mem hk
  have hsr := romSr_mem hr
  have hle := bitrateRow_le v l k hbr
  obtain ⟨hge, _⟩ := sampleRateRow_range v r hsr
  refine ⟨by omega, flenCoeff_mul_le v l k hbr, by decide, flenCoeff_mul_div_le v l k hbr r hsr, ?_⟩
  rintro rfl
  rw [romSpf_layerI]
  omega

end Sys2Proof.Machine

/-! # The synchronizer family (42_synchronizer.md)

Commands and responses of the synchronizer one step at a time, the two modes side by side, and whole commands. -/

namespace Sys2Proof.Machine

variable {s t : State} {rest : List Event} {b : Byte}

/-! ### The window's word and the decoder unit -/

/-- SYNC.TRY as R157 says it: the decoder unit judges the word in the window. -/
theorem tryWindow_eq_decodeUnit (s : State) :
    tryWindow s = .next (tryCandidate (decodeUnit s.cfg (windowWord s.w)) s) := by
  rcases tryWindow_cases s with ⟨v, l, _, hd, e⟩ | ⟨hd, e⟩ <;> rw [e]
  · rw [decodeUnit_of_class s.cfg hd]
  · rw [decodeUnit_of_not_class s.cfg hd]
    rfl

/-- A complete window that is not the first "RIFF" goes to SYNC.TRY (R156). -/
theorem afterFillDone_eq_tryWindow (h : s.riffChecked = true ∨ windowWord s.w ≠ 0x52494646#32) :
    afterFillDone s = tryWindow { s with riffChecked := true } := by
  rcases afterFillDone_cases s with ⟨_, e⟩ | ⟨hr, hriff, _⟩
  · exact e
  · simp [hr, hriff] at h

/-! ### Commands (R150 to R154) -/

/-- A command accepted in SEEKING starts FILL4 (R150, R155). -/
theorem acceptCommand_ready (m : Mode) (h : s.ready) :
    acceptCommand m s = .next { s with busy := true, done := false, mode := m, wfill := 0, ctx := .fill } := by
  obtain ⟨hb, hph, hstart⟩ := h
  rcases acceptCommand_cases m hb with ⟨_, hex, _⟩ | ⟨hex, _⟩ | ⟨_, _, e⟩ | ⟨_, hr, hc, _⟩
  · simp [hph] at hex
  · simp [hph] at hex
  · exact e
  · exact absurd hstart (by simp [hr, hc])

/-- A command in EXHAUSTED repeats the terminal code (R154). -/
theorem acceptCommand_exhausted (m : Mode) {k : ExKind} (hb : s.busy = false) (hph : s.phase = .exhausted)
    (hk : s.exkind = some k) : acceptCommand m s =
      .next { s with result := exhaustResult k, mode := m, busy := false, done := true, ctx := .idle } := by
  rcases acceptCommand_cases m hb with ⟨k', _, hk', e⟩ | ⟨_, hnone, _⟩ | ⟨hne, _⟩ | ⟨hne, _⟩
  · obtain rfl := Option.some.inj (hk.symm.trans hk')
    exact e
  · simp [hk] at hnone
  · exact absurd hph hne
  · exact absurd hph hne

/-- Settles O15: the codes 00 and 11 decode to the two commands without effect. -/
theorem nopAndReservedChangeNothing : Obligations.NopAndReservedChangeNothing := by
  unfold Obligations.NopAndReservedChangeNothing
  refine ⟨fun ign s => ⟨rfl, rfl⟩, fun s v rest hs hcode => ?_⟩
  rw [step_hostWrite hs, hostWrite_cmd]
  rcases exec_command_cases v { s with env := rest } with ⟨_, e⟩ | ⟨h, _⟩ | ⟨h, _⟩
  · exact e
  · simp [h] at hcode
  · simp [h] at hcode

/-- Settles O16: both commands are accepted in their mode. -/
theorem nextCommandsAreAccepted : Obligations.NextCommandsAreAccepted := by
  unfold Obligations.NextCommandsAreAccepted
  exact fun s ign h => ⟨acceptCommand_ready .full h, acceptCommand_ready .headerOnly h⟩

/-- Settles O17: whatever the code, a busy block accepts nothing. -/
theorem commandWhileBusyIsIgnored : Obligations.CommandWhileBusyIsIgnored := by
  unfold Obligations.CommandWhileBusyIsIgnored
  intro s v rest hb hs
  rw [step_hostWrite hs, hostWrite_cmd]
  rcases exec_command_cases v { s with env := rest } with ⟨_, e⟩ | ⟨_, e⟩ | ⟨_, e⟩ <;> rw [e]
  · exact acceptCommand_busy .full hb
  · exact acceptCommand_busy .headerOnly hb

/-- Settles O18: the code of each kind is `exhaustResult`. -/
theorem exhaustedCommandRepeatsItsCode : Obligations.ExhaustedCommandRepeatsItsCode := by
  unfold Obligations.ExhaustedCommandRepeatsItsCode
  intro s ign k hb hph hk
  refine ⟨exhaustResult k, ?_, ?_, ?_, ?_, acceptCommand_exhausted .full hb hph hk,
    acceptCommand_exhausted .headerOnly hb hph hk⟩ <;> (rintro rfl; rfl)

/-! ### The first byte reads of a command (R155 to R158) -/

/-- A byte of FILL4 but the last (R155). -/
theorem step_fill_open (hc : s.ctx = .fill) (hw : s.wfill < 3) (hs : s.stale = [])
    (h : s.env = .answer .normal :: rest) (hb : s.src[s.cursor]? = some b) :
    step s = .next { s with env := rest, cursor := s.cursor + 1, wfill := s.wfill + 1, w := s.w.set s.wfill b } := by
  rw [step_fill hc hs h hb, afterFill_data]
  have hopen : s.wfill + 1 < 4 := by omega
  exact if_pos hopen

/-- The last byte of FILL4 (R155, R156). -/
theorem step_fill_last (hc : s.ctx = .fill) (hw : s.wfill = 3) (hs : s.stale = [])
    (h : s.env = .answer .normal :: rest) (hb : s.src[s.cursor]? = some b) :
    step s = afterFillDone { s with env := rest, cursor := s.cursor + 1, wfill := 4, w := { s.w with b3 := b } } := by
  rw [step_fill hc hs h hb, afterFill_data]
  simp [hw]

/-- Settles O21: SYNC.TRY is the decoded header's `exec`, at the state with the window complete. -/
theorem stepRunsTheCompletedWindow : Obligations.StepRunsTheCompletedWindow := by
  unfold Obligations.StepRunsTheCompletedWindow
  rintro s b rest _ hs h hb rfl
  refine ⟨fun hc => ?_, fun hc hw hgo => ?_⟩
  · rw [step_shift hc hs h hb, tryWindow, windowWord, Quad.set_three]
  · rw [step_fill_last hc hw hs h hb, afterFillDone_eq_tryWindow (by exact hgo), tryWindow, windowWord]

/-- Settles O22: the byte goes to the place `wfill` names. -/
theorem fillTakesOneByte : Obligations.FillTakesOneByte := by
  unfold Obligations.FillTakesOneByte
  intro s b rest hc hw hs h hb
  refine ⟨_, step_fill_open hc hw hs h hb, ?_, ?_, ?_⟩ <;> (intro e; rw [e]; rfl)

/-- Settles O23: of the two ways out of a complete fill, the first window "RIFF" takes the unwrapper's. -/
theorem riffSignatureStartsTheUnwrapper : Obligations.RiffSignatureStartsTheUnwrapper := by
  unfold Obligations.RiffSignatureStartsTheUnwrapper
  intro s b rest hc hw hr hs h hb hriff
  rw [step_fill_last hc hw hs h hb]
  rcases afterFillDone_cases { s with env := rest, cursor := s.cursor + 1, wfill := 4, w := { s.w with b3 := b } }
    with ⟨hr' | hne, _⟩ | ⟨_, _, e⟩
  · exact absurd (hr.symm.trans hr') (by decide)
  · exact absurd hriff hne
  · exact e

/-! ### END and ERROR (R159, R163, R167) -/

/-- Settles O24: both contexts of Seeking name CLEAN for END. -/
theorem endWhileSeekingIsClean : Obligations.EndWhileSeekingIsClean := by
  unfold Obligations.EndWhileSeekingIsClean
  rintro s rest (hc | hc) hs h hend
  · rw [step_read_end hs h hend (by simp [pendingTxn, hc]), react_fill _ (by exact hc)]
    rfl
  · rw [step_read_end hs h hend (by simp [pendingTxn, hc]), react_shift _ (by exact hc)]
    rfl

/-- Settles O25: the payload's read names TRUNCATED for END. -/
theorem endInPayloadIsTruncated : Obligations.EndInPayloadIsTruncated := by
  unfold Obligations.EndInPayloadIsTruncated
  intro s rest hc hs h hend
  rw [step_read_end hs h hend (by simp [pendingTxn, hc]), react_payload _ (by exact hc)]
  rfl

/-- Settles O26: a command in progress has a transaction outstanding, and reacts to ERROR alike in every context. -/
theorem anyErrorEndsInSourceError : Obligations.AnyErrorEndsInSourceError := by
  unfold Obligations.AnyErrorEndsInSourceError
  intro s rest hc hs h
  obtain ⟨x, hx⟩ := pendingTxn_isSome hc
  rw [step_answer h hs hx, performTxn_error, react_error (by exact hc)]
  rfl

/-! ### Header and payload (R160 to R164) -/

/-- The latch leaves the header's four bytes to EMIT.COPYHDR (R160, R161). -/
theorem copyHeader_latched (d : Hdr) (s : State) :
    copyHeader { s with hdr := d, phase := .emitting, pcnt := 4 } =
      { s with hdr := d, phase := .emitting, pcnt := 4, fb := (copyHeader s).fb } := by
  cases hm : s.mode <;> simp [copyHeader, hm]

/-- A header longer than its four bytes is latched and copied, and its payload awaited (R160, R161, R162). -/
theorem latchHeader_eq {d : Hdr} (hd : 4 < d.frameLengthBytes.toNat) (s : State) :
    latchHeader d s =
      { s with hdr := d, phase := .emitting, pcnt := 4, ctx := .payload, fb := (copyHeader s).fb } := by
  rw [latchHeader, copyHeader_latched]
  exact if_pos hd

/-- The header's bytes in FB, and every other byte as before (R161). -/
theorem copyHeader_read_full (hm : s.mode = .full) :
    Memory.read (copyHeader s).fb 0 = some s.w.b0 ∧ Memory.read (copyHeader s).fb 1 = some s.w.b1 ∧
    Memory.read (copyHeader s).fb 2 = some s.w.b2 ∧ Memory.read (copyHeader s).fb 3 = some s.w.b3 ∧
    ∀ a, 4 ≤ a → Memory.read (copyHeader s).fb a = Memory.read s.fb a := by
  simp only [copyHeader_read, if_pos hm]
  refine ⟨rfl, rfl, rfl, rfl, fun a ha => ?_⟩
  rw [if_neg (by omega), if_neg (by omega), if_neg (by omega), if_neg (by omega)]

/-- Settles O13: the decoder answers for valid fields, with a length above four. -/
theorem validHeaderIsLatchedAndCopied : Obligations.ValidHeaderIsLatchedAndCopied := by
  unfold Obligations.ValidHeaderIsLatchedAndCopied
  intro v l f s h0 h15 h3
  obtain ⟨h, hd⟩ := decodeClass_valid s.cfg v l h0 h15 h3
  obtain ⟨hlen, _⟩ := decodeClass_some hd
  refine ⟨h, (copyHeader s).fb, hd, ?_, copyHeader_read_full, fun hm => by rw [copyHeader_headerOnly hm]⟩
  rw [exec_classInstr, hd, tryCandidate, latchHeader_eq (by omega)]

/-- FB after a payload byte (R162). -/
theorem read_storedByte (md : Mode) (m : Memory) (i : Nat) (b : Byte) :
    (md = .full → Memory.read (if md = .full then Memory.write m i b else m) i = some b ∧
      ∀ a, a ≠ i → Memory.read (if md = .full then Memory.write m i b else m) a = Memory.read m a) ∧
    (md = .headerOnly → (if md = .full then Memory.write m i b else m) = m) := by
  constructor
  · rintro rfl
    exact ⟨Memory.read_write_same m i b, fun a ha => Memory.read_write_other m b ha⟩
  · rintro rfl
    rfl

/-- Settles O28: below the frame's length the payload loop waits for the next byte. -/
theorem payloadByteIsStored : Obligations.PayloadByteIsStored := by
  unfold Obligations.PayloadByteIsStored
  intro s b rest hc hp hlen hs h hb
  refine ⟨_, ?_, read_storedByte s.mode s.fb s.pcnt b⟩
  rw [step_payload hc hp hs h hb, payloadLoop, if_pos hlen, hc]

/-- Settles O29: at the frame's length the payload loop delivers the frame. -/
theorem lastPayloadByteDeliversTheFrame : Obligations.LastPayloadByteDeliversTheFrame := by
  unfold Obligations.LastPayloadByteDeliversTheFrame
  intro s b rest hc hp hlen hs h hb
  refine ⟨_, ?_, read_storedByte s.mode s.fb s.pcnt b⟩
  rw [step_payload hc hp hs h hb, payloadLoop, if_neg (by simp [hlen])]
  rfl

end Sys2Proof.Machine

namespace Sys2Proof.Machine

variable {s t : State} {rest : List Event}

/-! ### Two runs with related outcomes -/

section
variable {R : State → State → Prop}

theorem outcomesRelated_next {o p : Out} (h : outcomesRelated R o p) (e : o = .next s) :
    ∃ t, p = .next t ∧ R s t := by
  subst e
  cases p with
  | next t => exact ⟨t, rfl, h⟩
  | fault e | refused e => exact h.elim

/-- Two runs that get the same response to a read. -/
theorem outcomesRelated_onByte (r : Response) (k : ExKind) {go : Byte → State → Out}
    (hend : ∀ k, R (exhaust k s) (exhaust k t)) (hgo : ∀ b, outcomesRelated R (go b s) (go b t)) :
    outcomesRelated R (onByte r k s go) (onByte r k t go) := by
  cases r with
  | data b => exact hgo b
  | eos | ok => exact hend k
  | error => exact hend .sourceError

/-- Two runs that get the same response to a seek. -/
theorem outcomesRelated_onSeek (r : Response) {go : State → Out}
    (hend : R (exhaust .sourceError s) (exhaust .sourceError t)) (hgo : outcomesRelated R (go s) (go t)) :
    outcomesRelated R (onSeek r s go) (onSeek r t go) := by
  cases r with
  | data b | eos | ok => exact hgo
  | error => exact hend

end

/-! ### The same command in another mode (R153) -/

/-- `t` is `s` in mode `m` with an FB of its own, which HEADER_ONLY keeps at `f`. -/
def fbTwin (m : Mode) (f : Memory) (s t : State) : Prop :=
  ∃ g, t = { s with mode := m, fb := g } ∧ (m = .headerOnly → g = f)

section
variable {m : Mode} {f : Memory}

/-- Whatever neither reads nor writes mode and FB keeps twins twins. -/
theorem fbTwin.map {upd : State → State}
    (hupd : ∀ s g, upd { s with mode := m, fb := g } = { upd s with mode := m, fb := g }) (h : fbTwin m f s t) :
    fbTwin m f (upd s) (upd t) := by
  obtain ⟨g, rfl, hg⟩ := h
  exact ⟨g, hupd s g, hg⟩

/-- What reads neither mode nor FB reads twins alike. -/
theorem fbTwin.same {α : Type} {read : State → α} (hread : ∀ s g, read { s with mode := m, fb := g } = read s)
    (h : fbTwin m f s t) : read t = read s := by
  obtain ⟨g, rfl, _⟩ := h
  exact hread s g

theorem fbTwin.exhaust (h : fbTwin m f s t) (k : ExKind) : fbTwin m f (exhaust k s) (exhaust k t) :=
  h.map fun _ _ => rfl

theorem fbTwin.payloadLoop (h : fbTwin m f s t) : fbTwin m f (payloadLoop s) (payloadLoop t) := by
  refine h.map fun s g => ?_
  unfold Machine.payloadLoop
  split <;> rfl

/-- `copyHeader` writes FB alone (R161). -/
theorem copyHeader_eq (s : State) : copyHeader s = { s with fb := (copyHeader s).fb } := by
  unfold copyHeader
  split <;> rfl

theorem fbTwin.copyHeader (h : fbTwin m f s t) : fbTwin m f (copyHeader s) (copyHeader t) := by
  obtain ⟨g, rfl, hg⟩ := h
  refine ⟨(Machine.copyHeader { s with mode := m, fb := g }).fb, ?_, fun hm => ?_⟩
  · simpa using copyHeader_eq { s with mode := m, fb := g }
  · rw [copyHeader_headerOnly hm]
    exact hg hm

theorem fbTwin.tryCandidate (h : fbTwin m f s t) (d : Option Hdr) :
    fbTwin m f (tryCandidate d s) (tryCandidate d t) := by
  cases d with
  | none => exact h.map (upd := shiftWindow) fun _ _ => rfl
  | some d =>
    have hlatch := h.map (upd := fun s => { s with hdr := d, phase := .emitting, pcnt := 4 }) fun _ _ => rfl
    exact hlatch.copyHeader.payloadLoop

theorem fbTwin.tryWindow (h : fbTwin m f s t) : outcomesRelated (fbTwin m f) (tryWindow s) (tryWindow t) := by
  have hcfg : t.cfg = s.cfg := h.same fun _ _ => rfl
  have hw : t.w = s.w := h.same fun _ _ => rfl
  rw [tryWindow_eq_decodeUnit, tryWindow_eq_decodeUnit, hcfg, hw]
  exact h.tryCandidate _

theorem fbTwin.afterFillDone (h : fbTwin m f s t) :
    outcomesRelated (fbTwin m f) (afterFillDone s) (afterFillDone t) := by
  have hchecked := h.map (upd := fun s => { s with riffChecked := true }) fun _ _ => rfl
  have hunwrap := hchecked.map (upd := startUnwrap) fun _ _ => rfl
  have htry := h.tryWindow
  have htry' := hchecked.tryWindow
  obtain ⟨g, rfl, _⟩ := h
  unfold Machine.afterFillDone
  dsimp only
  split
  · exact htry
  · split
    · exact hunwrap
    · exact htry'

theorem fbTwin.chunkDone (h : fbTwin m f s t) : outcomesRelated (fbTwin m f) (chunkDone s) (chunkDone t) := by
  obtain ⟨g, rfl, hg⟩ := h
  unfold Machine.chunkDone
  dsimp only
  split <;> split
  · exact ⟨g, rfl, hg⟩
  · exact rfl
  · exact ⟨g, rfl, hg⟩
  · exact rfl

theorem fbTwin.afterFill (h : fbTwin m f s t) (r : Response) :
    outcomesRelated (fbTwin m f) (afterFill r s) (afterFill r t) := by
  refine outcomesRelated_onByte r _ h.exhaust fun b => ?_
  have hbyte := h.map (upd := fun s => { s with w := s.w.set s.wfill b, wfill := s.wfill + 1 }) fun _ _ => rfl
  have hdone := hbyte.afterFillDone
  obtain ⟨g, rfl, _⟩ := h
  dsimp only
  split
  · exact hbyte
  · exact hdone

/-- A payload byte goes to FB in FULL mode, in HEADER_ONLY mode it is counted only (R162). -/
theorem fbTwin.afterPayload (h : fbTwin m f s t) (hp : s.pcnt < fbSize) (r : Response) :
    outcomesRelated (fbTwin m f) (afterPayload r s) (afterPayload r t) := by
  have hdata (b : Byte) :
      outcomesRelated (fbTwin m f) (Machine.afterPayload (.data b) s) (Machine.afterPayload (.data b) t) := by
    obtain ⟨g, rfl, hg⟩ := h
    rw [afterPayload_data b hp, afterPayload_data b (by exact hp)]
    refine fbTwin.payloadLoop ⟨_, rfl, fun hm => ?_⟩
    rw [hm]
    exact hg hm
  exact outcomesRelated_onByte r _ h.exhaust hdata

theorem fbTwin.afterChunkSize (h : fbTwin m f s t) (k : Nat) (r : Response) :
    outcomesRelated (fbTwin m f) (afterChunkSize k r s) (afterChunkSize k r t) := by
  refine outcomesRelated_onByte r _ h.exhaust fun b => ?_
  have hbyte := h.map (upd := fun s => { s with csz := s.csz.set k b }) fun _ _ => rfl
  dsimp only
  split
  · exact hbyte.map (upd := fun s => { s with ctx := .chunkSize (k + 1) }) fun _ _ => rfl
  · exact hbyte.chunkDone

theorem fbTwin.afterRiffHeader (h : fbTwin m f s t) (k : Nat) (r : Response) :
    outcomesRelated (fbTwin m f) (afterRiffHeader k r s) (afterRiffHeader k r t) := by
  refine outcomesRelated_onByte r _ h.exhaust fun b => ?_
  split
  · exact h.map (upd := fun s => { s with ctx := .riffHeader (k + 1) }) fun _ _ => rfl
  · exact h.map (upd := fun s => { s with upos := 12, ctx := .chunkId 0 }) fun _ _ => rfl

/-- A command in either mode takes a response alike, but for FB (R153). -/
theorem fbTwin.react (h : fbTwin m f s t) (hp : s.ctx = .payload → s.pcnt < fbSize) (r : Response) :
    outcomesRelated (fbTwin m f) (react r s) (react r t) := by
  have hctx : t.ctx = s.ctx := h.same fun _ _ => rfl
  cases hc : s.ctx with
  | idle => rw [react_idle r hc, react_idle r (hctx.trans hc)]; exact h
  | fill => rw [react_fill r hc, react_fill r (hctx.trans hc)]; exact h.afterFill r
  | shift =>
    rw [react_shift r hc, react_shift r (hctx.trans hc)]
    exact outcomesRelated_onByte r _ h.exhaust fun b =>
      (h.map (upd := fun s => { s with w := s.w.set 3 b }) fun _ _ => rfl).tryWindow
  | payload => rw [react_payload r hc, react_payload r (hctx.trans hc)]; exact h.afterPayload (hp hc) r
  | rewind =>
    rw [react_rewind r hc, react_rewind r (hctx.trans hc)]
    exact outcomesRelated_onSeek r (h.exhaust _)
      (h.map (upd := fun s => { s with upos := 0, ctx := .riffHeader 0 }) fun _ _ => rfl)
  | riffHeader k =>
    rw [react_riffHeader r hc, react_riffHeader r (hctx.trans hc)]
    exact h.afterRiffHeader k r
  | chunkId k =>
    rw [react_chunkId r hc, react_chunkId r (hctx.trans hc)]
    exact outcomesRelated_onByte r _ h.exhaust fun b => h.map
      (upd := fun s => { s with cid := s.cid.set k b, ctx := if k + 1 < 4 then .chunkId (k + 1) else .chunkSize 0 })
      fun _ _ => rfl
  | chunkSize k => rw [react_chunkSize r hc, react_chunkSize r (hctx.trans hc)]; exact h.afterChunkSize k r
  | seekData =>
    rw [react_seekData r hc, react_seekData r (hctx.trans hc)]
    exact outcomesRelated_onSeek r (h.exhaust _) (h.map (upd := startFill) fun _ _ => rfl)
  | seekSkip =>
    rw [react_seekSkip r hc, react_seekSkip r (hctx.trans hc)]
    exact outcomesRelated_onSeek r (h.exhaust _) (h.map (upd := fun s => { s with ctx := .chunkId 0 }) fun _ _ => rfl)

/-- The source answers both alike: mode and FB are nothing it sees (R61). -/
theorem fbTwin.performTxn (h : fbTwin m f s t) (x : Txn) (d : Draw) :
    (performTxn x d t).1 = (performTxn x d s).1 ∧ fbTwin m f (performTxn x d s).2 (performTxn x d t).2 := by
  obtain ⟨g, rfl, hg⟩ := h
  cases x with
  | seek p => cases d <;> exact ⟨rfl, g, rfl, hg⟩
  | read =>
    rcases performTxn_read_cases d s with ⟨b, hb, rfl, e⟩ | ⟨hend, rfl, e⟩ | ⟨rfl, e⟩ <;> rw [e]
    · rw [performTxn_read_data (by exact hb)]
      exact ⟨rfl, g, rfl, hg⟩
    · rw [performTxn_read_end (by exact hend)]
      exact ⟨rfl, g, rfl, hg⟩
    · rw [performTxn_error]
      exact ⟨rfl, g, rfl, hg⟩

theorem fbTwin.sourceAnswers (h : fbTwin m f s t) (hp : s.ctx = .payload → s.pcnt < fbSize) (d : Draw) :
    outcomesRelated (fbTwin m f) (sourceAnswers d s) (sourceAnswers d t) := by
  have hstale : t.stale = s.stale := h.same fun _ _ => rfl
  have hpending : pendingTxn t = pendingTxn s := h.same fun _ _ => rfl
  unfold Machine.sourceAnswers
  rw [hstale, hpending]
  cases s.stale with
  | cons x xs =>
    have hlate := h.map (upd := fun s => { s with stale := xs }) fun _ _ => rfl
    exact (hlate.performTxn x d).2
  | nil =>
    cases pendingTxn s with
    | none => exact h
    | some x =>
      obtain ⟨hresp, htwin⟩ := h.performTxn x d
      obtain ⟨c, hs⟩ := performTxn_state x d s
      dsimp only
      rw [hresp]
      exact htwin.react (by rw [hs]; exact hp) _

end

/-- The payload read is of a byte FB has (R162, R135). -/
theorem State.Inv.pcnt_lt_fbSize (h : s.Inv) (hc : s.ctx = .payload) : s.pcnt < fbSize := by
  obtain ⟨_, hhigh, hdec⟩ := h.payloadOpen hc
  exact hhigh.trans_le (frameLengthBytes_le_fbSize hdec)

/-- Both commands are accepted, ignored or completed alike, into states that differ in mode alone (R150, R153). -/
theorem State.Inv.acceptCommand_modes (h : s.Inv) (hstart : s.result ≠ .none ∨ s.cursor = 0) :
    ∃ t u, acceptCommand .full s = .next t ∧ acceptCommand .headerOnly s = .next u ∧ sameButFb t u ∧
      u.fb = s.fb := by
  cases hb : s.busy with
  | true => exact ⟨s, s, acceptCommand_busy _ hb, acceptCommand_busy _ hb, rfl, rfl⟩
  | false =>
    have hidle := h.idle_of_not_busy hb
    cases hph : s.phase with
    | seeking =>
      have hready : s.ready := ⟨hb, hph, hstart⟩
      exact ⟨_, _, acceptCommand_ready _ hready, acceptCommand_ready _ hready, rfl, rfl⟩
    | emitting => simp [h.emittingIff.1 hph] at hidle
    | exhausted =>
      obtain ⟨k, hk⟩ := Option.isSome_iff_exists.1 (h.exhaustedIff.1 hph)
      exact ⟨_, _, acceptCommand_exhausted _ hb hph hk, acceptCommand_exhausted _ hb hph hk, rfl, rfl⟩

/-- Settles O39: the two commands are accepted alike, and twins stay twins at every answer. -/
theorem headerOnlyModeDiffersOnlyInFb : Obligations.HeaderOnlyModeDiffersOnlyInFb := by
  unfold Obligations.HeaderOnlyModeDiffersOnlyInFb
  refine ⟨fun s ign h hstart => h.acceptCommand_modes hstart, fun s t s' d rest hs ht hsame henv hstep => ?_⟩
  have htwin : fbTwin t.mode t.fb { s with env := rest } { t with env := rest } := by
    unfold sameButFb at hsame
    exact ⟨t.fb, by rw [hsame], fun _ => rfl⟩
  have henv' : t.env = .answer d :: rest := by rw [hsame]; exact henv
  rw [step_event henv] at hstep
  rw [step_event henv']
  obtain ⟨t', ht', g, rfl, hg⟩ := outcomesRelated_next (htwin.sourceAnswers hs.pcnt_lt_fbSize d) hstep
  exact ⟨_, ht', rfl, hg⟩

end Sys2Proof.Machine

namespace Sys2Proof.Machine

variable {s t : State} {rest e : List Event} {n : Nat}

/-! ### Every answer moves a command on (R172, R173, R199) -/

/-- The outcome is a next state that meets `P`. -/
def hasNext (P : State → Prop) (o : Out) : Prop := ∃ t, o = .next t ∧ P t

/-- How many bytes are left to scan, with room for one unwrap where the container check is still to come (R156, R191). -/
def State.scanLeft (s : State) : Nat :=
  s.src.length - s.cursor + if s.riffChecked then 0 else 3 * s.src.length + 4

/-- A bound on the answers the command in progress still takes. A walk comes before the scan it leads to, so its contexts
count `src.length + 1` for the scan and 2 for each byte the walk has not passed: one for the byte and, as a chunk header
has eight, one to spare for the seek of its chunk. -/
def State.rank (s : State) : Nat :=
  match s.ctx with
  | .idle => 0
  | .fill | .shift | .payload => s.scanLeft
  | .rewind => 3 * s.src.length + 3
  | .riffHeader _ | .chunkId _ | .chunkSize _ => s.src.length + 2 + 2 * (s.src.length - s.cursor)
  | .seekSkip => s.src.length + 3 + 2 * (s.src.length - s.upos)
  | .seekData => s.src.length + 1

theorem State.rank_le (s : State) : s.rank ≤ 4 * s.src.length + 4 := by
  have hscan : s.scanLeft ≤ 4 * s.src.length + 4 := by
    unfold State.scanLeft
    split <;> omega
  unfold State.rank
  split <;> omega

/-- The state after a response, with the inputs `e` still to come: the command has ended, or its rank is below `n`. -/
structure State.MovesOn (e : List Event) (n : Nat) (t : State) : Prop where
  env : t.env = e
  noStale : t.stale = []
  less : t.busy = false ∨ t.rank < n

section
variable (he : s.env = e) (hs : s.stale = [])
include he hs

theorem exhaust_movesOn (k : ExKind) : (exhaust k s).MovesOn e n := ⟨he, hs, .inl rfl⟩

theorem payloadLoop_movesOn (hn : s.scanLeft < n) : (payloadLoop s).MovesOn e n := by
  rcases payloadLoop_cases s with ⟨_, h⟩ | ⟨_, h⟩ <;> rw [h]
  · exact ⟨he, hs, .inr hn⟩
  · exact ⟨he, hs, .inl rfl⟩

theorem tryCandidate_movesOn (hn : s.scanLeft < n) (d : Option Hdr) : (tryCandidate d s).MovesOn e n := by
  cases d with
  | none => exact ⟨he, hs, .inr hn⟩
  | some d =>
    exact payloadLoop_movesOn (s := copyHeader { s with hdr := d, phase := .emitting, pcnt := 4 })
      (by simpa using he) (by simpa using hs) (by simpa [State.scanLeft] using hn)

theorem tryWindow_movesOn (hn : s.scanLeft < n) : hasNext (State.MovesOn e n) (tryWindow s) :=
  ⟨_, tryWindow_eq_decodeUnit s, tryCandidate_movesOn he hs hn _⟩

/-- The container check leads to the scan, or once to the unwrapper (R156, R191). -/
theorem afterFillDone_movesOn (hn : s.scanLeft < n) : hasNext (State.MovesOn e n) (afterFillDone s) := by
  rcases afterFillDone_cases s with ⟨_, h⟩ | ⟨hr, _, h⟩ <;> rw [h]
  · refine tryWindow_movesOn (s := { s with riffChecked := true }) he hs ?_
    simp only [State.scanLeft, if_true] at hn ⊢
    omega
  · refine ⟨_, rfl, he, hs, .inr ?_⟩
    simp only [State.scanLeft, hr, Bool.false_eq_true, if_false] at hn
    simp only [State.rank, startUnwrap]
    omega

/-- A chunk header that was read inside the source leads to a seek the positions can address (R195, R196, R199). -/
theorem chunkDone_movesOn (hsrc : s.src.length < 2 ^ 63) (hread : s.upos + 8 ≤ s.src.length)
    (hn : s.src.length + 3 + 2 * (s.src.length - (s.upos + 8)) < n) :
    hasNext (State.MovesOn e n) (chunkDone s) := by
  have htarget : s.upos + 8 ≤ skipTarget s.cfg (s.upos + 8) (littleEndian s.csz) ∧
      skipTarget s.cfg (s.upos + 8) (littleEndian s.csz) < 2 ^ posWidth := by
    have h0 := s.csz.b0.isLt
    have h1 := s.csz.b1.isLt
    have h2 := s.csz.b2.isLt
    have h3 := s.csz.b3.isLt
    unfold skipTarget littleEndian posWidth
    split <;> omega
  rcases chunkDone_cases s with ⟨_, _, h⟩ | ⟨_, _, h⟩ | ⟨hwide, _⟩
  · exact ⟨_, h, he, hs, .inr (by simp only [State.rank]; omega)⟩
  · exact ⟨_, h, he, hs, .inr (by simp only [State.rank]; omega)⟩
  · unfold posWidth at hwide htarget
    omega

end

section
variable (h : s.Inv) (he : s.env = e) (hs : s.stale = [])
include h he hs

/-- A byte of the source brings the command closer to its end. -/
theorem State.Inv.react_data_movesOn (b : Byte) (hlt : s.cursor < s.src.length) (hx : pendingTxn s = some .read) :
    hasNext (State.MovesOn e s.rank) (react (.data b) { s with cursor := s.cursor + 1 }) := by
  have hscan : s.src.length - (s.cursor + 1) + (if s.riffChecked then 0 else 3 * s.src.length + 4) < s.scanLeft := by
    unfold State.scanLeft
    omega
  rcases pendingTxn_eq_read hx with hc | hc | hc | ⟨k, hc⟩ | ⟨k, hc⟩ | ⟨k, hc⟩
  · have hrank : s.scanLeft = s.rank := by simp only [State.rank, hc]
    rw [react_fill _ (by exact hc), afterFill_data]
    split
    · exact ⟨_, rfl, he, hs, .inr (by simp only [State.rank, hc]; exact hscan)⟩
    · exact afterFillDone_movesOn he hs (hscan.trans_eq hrank)
  · have hrank : s.scanLeft = s.rank := by simp only [State.rank, hc]
    rw [react_shift _ (by exact hc), afterShift_data]
    exact tryWindow_movesOn he hs (hscan.trans_eq hrank)
  · have hrank : s.scanLeft = s.rank := by simp only [State.rank, hc]
    rw [react_payload _ (by exact hc), afterPayload_data b (by exact h.pcnt_lt_fbSize hc)]
    exact ⟨_, rfl, payloadLoop_movesOn he hs (hscan.trans_eq hrank)⟩
  · rw [react_riffHeader (k := k) _ (by exact hc), afterRiffHeader, onByte_data]
    split <;> exact ⟨_, rfl, he, hs, .inr (by simp only [State.rank, hc]; omega)⟩
  · rw [react_chunkId (k := k) _ (by exact hc), afterChunkId, onByte_data]
    refine ⟨_, rfl, he, hs, .inr ?_⟩
    by_cases hk : k + 1 < 4 <;> simp only [State.rank, hc, hk, if_true, if_false] <;> omega
  · have hk := h.counterInRange
    have hcur := h.cursorInPlace
    simp only [hc, Ctx.counterInRange, Ctx.cursorInPlace, decide_eq_true_eq] at hk hcur
    rw [react_chunkSize (k := k) _ (by exact hc), afterChunkSize, onByte_data]
    dsimp only
    split
    · exact ⟨_, rfl, he, hs, .inr (by simp only [State.rank, hc]; omega)⟩
    · exact chunkDone_movesOn he hs h.srcShort (by dsimp only; omega) (by simp only [State.rank, hc]; omega)

/-- The end of a seek brings the command closer to its end. -/
theorem State.Inv.react_ok_movesOn {p : Nat} (hx : pendingTxn s = some (.seek p)) :
    hasNext (State.MovesOn e s.rank) (react .ok { s with cursor := p }) := by
  rcases pendingTxn_eq_seek hx with ⟨hc, rfl⟩ | ⟨hc, rfl⟩ | ⟨hc, rfl⟩
  · rw [react_rewind _ (by exact hc), afterRewind, onSeek_ok]
    exact ⟨_, rfl, he, hs, .inr (by simp only [State.rank, hc]; omega)⟩
  · rw [react_seekData _ (by exact hc), afterSeekData, onSeek_ok]
    have hr := h.unwrapChecked (by rw [hc]; rfl)
    exact ⟨_, rfl, he, hs, .inr (by simp only [State.rank, hc, State.scanLeft, startFill, hr, if_true]; omega)⟩
  · rw [react_seekSkip _ (by exact hc), afterSeekSkip, onSeek_ok]
    exact ⟨_, rfl, he, hs, .inr (by simp only [State.rank, hc]; omega)⟩

/-- Whatever the source answers, the command in progress goes on, and closer to its end. -/
theorem State.Inv.response_movesOn {x : Txn} (hx : pendingTxn s = some x) (d : Draw) :
    hasNext (State.MovesOn e s.rank) (react (performTxn x d s).1 (performTxn x d s).2) := by
  have hc : s.ctx ≠ .idle := fun hc => by simp [pendingTxn, hc] at hx
  cases x with
  | read =>
    rcases performTxn_read_cases d s with ⟨b, hb, _, hp⟩ | ⟨_, _, hp⟩ | ⟨_, hp⟩ <;> rw [hp]
    · exact h.react_data_movesOn he hs b (List.getElem?_eq_some_iff.1 hb).1 hx
    · obtain ⟨k, hk⟩ := react_end hx
      exact ⟨_, hk, exhaust_movesOn he hs k⟩
    · exact ⟨_, react_error hc, exhaust_movesOn he hs _⟩
  | seek p =>
    cases d with
    | normal => exact h.react_ok_movesOn he hs hx
    | error => exact ⟨_, react_error hc, exhaust_movesOn he hs _⟩

end

/-- Settles O42: a late answer and an answer nobody waits for stop nothing, and a command goes on. -/
theorem everyResponseHasANextState : Obligations.EveryResponseHasANextState := by
  unfold Obligations.EveryResponseHasANextState
  intro s d rest h hs
  have h' : ({ s with env := rest } : State).Inv := { h with }
  rw [step_event hs]
  rcases sourceAnswers_cases d { s with env := rest } with ⟨_, _, _, e⟩ | ⟨_, _, e⟩ | ⟨hst, x, hx, e⟩
  · exact ⟨_, e⟩
  · exact ⟨_, e⟩
  · obtain ⟨t, ht, _⟩ := h'.response_movesOn rfl hst hx d
    exact ⟨t, e.trans ht⟩

/-! ### An answered command completes (R173) -/

/-- The last command is over: the block is idle with a result (R165). -/
structure State.Completed (s : State) : Prop where
  idle : s.ctx = .idle
  notBusy : s.busy = false
  isDone : s.done = true
  hasResult : s.result ≠ .none

theorem State.Inv.completed (h : s.Inv) (hb : s.busy = false) (hd : s.done = true) : s.Completed :=
  ⟨h.idle_of_not_busy hb, hb, hd, h.doneHasResult hd⟩

/-- Further answers find nobody waiting (R221, R230). -/
theorem State.Completed.run {ds : List Draw} (h : s.Completed) (henv : s.env = ds.map .answer) :
    hasNext State.Completed (run ds.length s) := by
  induction ds generalizing s with
  | nil => exact ⟨s, rfl, h⟩
  | cons d ds ih =>
    cases hs : s.stale with
    | nil =>
      rw [List.length_cons, run_succ _ (step_answer_idle henv hs h.idle)]
      exact ih { h with } rfl
    | cons x xs =>
      obtain ⟨c, e⟩ := performTxn_state x d { s with env := ds.map .answer, stale := xs }
      rw [List.length_cons, run_succ _ (step_answer_stale henv hs), e]
      exact ih { h with } rfl

/-- With no late answer to come, a command is over after any answers that outnumber its rank. -/
theorem State.Inv.run_completes {ds : List Draw} (h : s.Inv) (hb : s.busy = true) (hs : s.stale = [])
    (henv : s.env = ds.map .answer) (hn : s.rank < ds.length) : hasNext State.Completed (run ds.length s) := by
  induction ds generalizing s with
  | nil => exact absurd hn (Nat.not_lt_zero _)
  | cons d ds ih =>
    obtain ⟨x, hx⟩ := pendingTxn_isSome (h.busyIff.1 hb)
    have h' : ({ s with env := ds.map .answer } : State).Inv := { h with }
    obtain ⟨t, ht, henv', hs', hless⟩ := h'.response_movesOn rfl hs hx d
    obtain ⟨_, _, _, hbd⟩ := response_reacts ht
    have hstep : step s = .next t := (step_answer henv hs hx).trans ht
    have hinv : t.Inv := everyStepKeepsTheInvariant s t h hstep
    rw [List.length_cons, run_succ _ hstep]
    rcases hbd with ⟨hbusy, _⟩ | ⟨hidle, hdone⟩
    · have hbusy : t.busy = true := hbusy.trans hb
      have hlt : t.rank < s.rank := hless.resolve_left (by simp [hbusy])
      have hlen : s.rank < ds.length + 1 := hn
      exact ih hinv hbusy hs' henv' (by omega)
    · exact (hinv.completed hidle hdone).run henv'

/-- The late answers come first, each of them takes one input, and the source they leave is as long as before (log 8). -/
theorem State.Inv.run_completes_late (xs : List Txn) {ds : List Draw} (h : s.Inv) (hb : s.busy = true)
    (hs : s.stale = xs) (henv : s.env = ds.map .answer) (hn : xs.length + (4 * s.src.length + 5) = ds.length) :
    hasNext State.Completed (run ds.length s) := by
  induction xs generalizing s ds with
  | nil =>
    have hrank := s.rank_le
    rw [List.length_nil] at hn
    exact h.run_completes hb hs henv (by omega)
  | cons x xs ih =>
    cases ds with
    | nil => simp at hn
    | cons d ds =>
      have hstep := step_answer_stale henv hs
      have hinv := everyStepKeepsTheInvariant s _ h hstep
      obtain ⟨c, e⟩ := performTxn_state x d { s with env := ds.map .answer, stale := xs }
      rw [e] at hstep hinv
      rw [List.length_cons, run_succ _ hstep]
      rw [List.length_cons, List.length_cons] at hn
      exact ih hinv hb rfl rfl (by dsimp only; omega)

/-- Settles O45: the late answers and then at most four answers for each byte of the source, and five. -/
theorem answeredCommandCompletes : Obligations.AnsweredCommandCompletes := by
  unfold Obligations.AnsweredCommandCompletes
  intro s h hb
  refine ⟨s.stale.length + (4 * s.src.length + 5), fun ds hds => ?_⟩
  have h' : ({ s with env := ds.map .answer } : State).Inv := { h with }
  obtain ⟨t, ht, hdone⟩ := h'.run_completes_late s.stale hb rfl rfl hds.symm
  exact ⟨t, hds ▸ ht, hdone.notBusy, hdone.isDone, hdone.hasResult⟩

end Sys2Proof.Machine

namespace Sys2Proof.Machine

variable {s : State} {q : Quad} {bs : List Byte} {p n : Nat} {w : Word} {d : Hdr}

/-! ### Windows of a stream (R157) -/

/-- The four bytes of `q` stand in the stream from position `p` on. -/
def Quad.heldAt (q : Quad) (bs : List Byte) (p : Nat) : Prop :=
  bs[p]? = some q.b0 ∧ bs[p + 1]? = some q.b1 ∧ bs[p + 2]? = some q.b2 ∧ bs[p + 3]? = some q.b3

theorem Quad.heldAt.headerAt (h : q.heldAt bs p) : headerAt bs p = some (windowWord q) := by
  obtain ⟨h0, h1, h2, h3⟩ := h
  simp only [Machine.headerAt, h0, h1, h2, h3, windowWord]

/-- Where the stream has four bytes there is a window. -/
theorem exists_heldAt (h : p + 4 ≤ bs.length) : ∃ q : Quad, q.heldAt bs p :=
  ⟨⟨bs[p], bs[p + 1], bs[p + 2], bs[p + 3]⟩, List.getElem?_eq_getElem _, List.getElem?_eq_getElem _,
    List.getElem?_eq_getElem _, List.getElem?_eq_getElem _⟩

/-- The window of a header word holds its bytes (R9). -/
theorem Quad.heldAt.getElem?_eq_headerByte (h : q.heldAt bs p) {k : Nat} (hk : k < 4) :
    bs[p + k]? = some (headerByte (windowWord q) k) := by
  obtain ⟨h0, h1, h2, h3⟩ := h
  obtain ⟨e0, e1, e2, e3⟩ := headerByte_headerWord q.b0 q.b1 q.b2 q.b3
  rw [windowWord]
  interval_cases k <;> simp [*]

/-- "RIFF" is no header (R190). -/
theorem decodeUnit_riff (c : Config) : decodeUnit c 0x52494646#32 = none :=
  (decodeUnit_eq_none_iff c _).2 (.inl (by decide))

/-- A valid header's frame is longer than the header and fits FB (R135). -/
theorem decodeUnit_length {c : Config} (h : decodeUnit c w = some d) :
    24 ≤ d.frameLengthBytes.toNat ∧ d.frameLengthBytes.toNat ≤ maxFrameLen := by
  obtain ⟨_, _, _, hd⟩ := decodeUnit_some h
  obtain ⟨hge, hle, _⟩ := decodeClass_some hd
  exact ⟨hge, hle.trans (by decide)⟩

/-! ### The parts of a command: acceptance, FILL4, shifts, payload (R150, R155, R158, R162) -/

/-- The CMD write of a command is accepted, the answers still to come. -/
theorem step_commanded (m : Mode) (ign : BitVec 30) (h : s.ready) : step (s.commanded m ign n) =
    .next { s with env := answers n, busy := true, done := false, mode := m, wfill := 0, ctx := .fill } := by
  rw [step_hostWrite (rest := answers n) rfl, hostWrite_cmd, exec_commandWord]
  exact acceptCommand_ready m h

/-- FILL4 answered with four bytes that are not the first window "RIFF" (R155, R156). -/
theorem run_fill (hc : s.ctx = .fill) (hw : s.wfill = 0) (hs : s.stale = []) (henv : s.env = answers (n + 4))
    (hq : q.heldAt s.src s.cursor) (hgo : s.riffChecked = true ∨ windowWord q ≠ 0x52494646#32) :
    run 4 s = .next (tryCandidate (decodeUnit s.cfg (windowWord q)) { s with
      env := answers n, cursor := s.cursor + 4, wfill := 4, w := q, riffChecked := true }) := by
  obtain ⟨h0, h1, h2, h3⟩ := hq
  have step0 := step_fill_open hc (by omega) hs henv h0
  rw [hw] at step0
  calc run 4 s
    _ = run 3 { s with env := answers (n + 3), cursor := s.cursor + 1, wfill := 1, w := { s.w with b0 := q.b0 } } :=
      run_succ 3 step0
    _ = run 2 { s with
          env := answers (n + 2), cursor := s.cursor + 2, wfill := 2, w := { s.w with b0 := q.b0, b1 := q.b1 } } :=
      run_succ 2 (step_fill_open hc (by simp) hs rfl h1)
    _ = run 1 { s with env := answers (n + 1), cursor := s.cursor + 3, wfill := 3, w := { q with b3 := s.w.b3 } } :=
      run_succ 1 (step_fill_open hc (by simp) hs rfl h2)
    _ = .next (tryCandidate (decodeUnit s.cfg (windowWord q)) { s with
          env := answers n, cursor := s.cursor + 4, wfill := 4, w := q, riffChecked := true }) := by
      refine run_succ 0 (Eq.trans (step_fill_last hc rfl hs rfl h3) ?_)
      rw [afterFillDone_eq_tryWindow (by exact hgo)]
      exact tryWindow_eq_decodeUnit _

/-- `s` with the header `d` latched from the window `q` and copied, at cursor `c`, with `n` answers to come. -/
def State.latched (s : State) (d : Hdr) (q : Quad) (m : Memory) (c n : Nat) : State :=
  { s with
    env := answers n, cursor := c, w := q, hdr := d, phase := .emitting, pcnt := 4, ctx := .payload, fb := m }

/-- The first `n` bytes of the memory are those of the stream from `p` on. -/
def Memory.copies (m : Memory) (n : Nat) (bs : List Byte) (p : Nat) : Prop :=
  ∀ i, i < n → Memory.read m i = bs[p + i]?

/-- Invalid windows are shifted out until the header at `p + k` is latched and copied (R157, R158, R160, R161). -/
theorem run_scan (k : Nat) (hs : s.stale = []) (henv : s.env = answers (n + k)) (hcur : s.cursor = p + 4)
    (hw : s.w.heldAt s.src p) (hend : p + k + 4 ≤ s.src.length)
    (hbad : ∀ i v, i < k → headerAt s.src (p + i) = some v → decodeUnit s.cfg v = none)
    (hat : headerAt s.src (p + k) = some w) (hd : decodeUnit s.cfg w = some d) :
    ∃ q m, run k (tryCandidate (decodeUnit s.cfg (windowWord s.w)) s) = .next (s.latched d q m (p + k + 4) n) ∧
      (s.mode = .full → Memory.copies m 4 s.src (p + k)) := by
  induction k generalizing s p with
  | zero =>
    obtain rfl : windowWord s.w = w := Option.some.inj (hw.headerAt.symm.trans hat)
    obtain ⟨hlen, _⟩ := decodeUnit_length hd
    have henv : answers n = s.env := henv.symm
    refine ⟨s.w, (copyHeader s).fb, ?_, fun hm i hi => ?_⟩
    · rw [hd, tryCandidate, latchHeader_eq (by omega), run_zero, Nat.add_zero, ← hcur, State.latched, henv]
    · obtain ⟨h0, h1, h2, h3⟩ := hw
      obtain ⟨r0, r1, r2, r3, _⟩ := copyHeader_read_full hm
      interval_cases i <;> simp [*]
  | succ k ih =>
    have hlt : s.cursor < s.src.length := by omega
    have ⟨_, h1, h2, h3⟩ := hw
    have h4 : s.src[p + 4]? = some s.src[s.cursor] := by rw [← hcur, List.getElem?_eq_getElem hlt]
    have hstep := step_shift (s := shiftWindow s) (rest := answers (n + k)) rfl hs henv (List.getElem?_eq_getElem hlt)
    have hnext : p + 1 + k = p + (k + 1) := by omega
    rw [hbad 0 _ (Nat.succ_pos k) hw.headerAt, tryCandidate, run_succ k (hstep.trans (tryWindow_eq_decodeUnit _)),
      ← hnext]
    refine ih (s := { shiftWindow s with
        env := answers (n + k), cursor := s.cursor + 1, w := (shiftWindow s).w.set 3 s.src[s.cursor] })
      hs rfl (by simp [hcur]) ⟨h1, h2, h3, h4⟩ (by rw [hnext]; exact hend) (fun i v hi hv => ?_)
      (by rw [hnext]; exact hat) hd
    exact hbad (i + 1) v (by omega) (by rw [← hv]; congr 1; omega)

/-- One more byte of the stream at its place. -/
theorem Memory.copies_succ {m m' : Memory} {b : Byte} (h : m.copies n bs p) (hb : bs[p + n]? = some b)
    (hnew : Memory.read m' n = some b) (hold : ∀ a, a ≠ n → Memory.read m' a = Memory.read m a) :
    m'.copies (n + 1) bs p := by
  intro i hi
  by_cases hin : i = n
  · rw [hin, hnew, hb]
  · rw [hold i hin]
    exact h i (by omega)

/-- The byte at the cursor of a source with bytes left. -/
theorem byte_at_cursor (hcur : s.cursor = p + n) (hlt : p + n < s.src.length) :
    ∃ b, s.src[s.cursor]? = some b ∧ s.src[p + n]? = some b := by
  rw [hcur]
  exact ⟨_, List.getElem?_eq_getElem hlt, List.getElem?_eq_getElem hlt⟩

/-- The rest of the payload of a frame that begins at `p`, its last byte delivering the frame (R162, R164). -/
theorem run_payload (j : Nat) (hc : s.ctx = .payload) (hs : s.stale = []) (henv : s.env = answers (j + 1))
    (hcur : s.cursor = p + s.pcnt) (hlen : s.pcnt + (j + 1) = s.hdr.frameLengthBytes.toNat)
    (hfit : s.hdr.frameLengthBytes.toNat ≤ maxFrameLen) (hend : p + s.hdr.frameLengthBytes.toNat ≤ s.src.length)
    (hfb : s.mode = .full → Memory.copies s.fb s.pcnt s.src p) :
    ∃ m, run (j + 1) s = .next { s with
        env := [], cursor := p + s.hdr.frameLengthBytes.toNat, pcnt := s.hdr.frameLengthBytes.toNat, fb := m,
        phase := .seeking, result := .frame, busy := false, done := true, ctx := .idle } ∧
      (s.mode = .full → Memory.copies m s.hdr.frameLengthBytes.toNat s.src p) := by
  induction j generalizing s with
  | zero =>
    obtain ⟨b, hb, hb'⟩ := byte_at_cursor hcur (by omega)
    obtain ⟨m, hstep, hfull, _⟩ := lastPayloadByteDeliversTheFrame s b [] hc (by omega) hlen hs henv hb
    refine ⟨m, ?_, fun hm => ?_⟩
    · rw [run_succ 0 hstep, run_zero, hcur, ← hlen, Nat.add_assoc]
    · obtain ⟨hnew, hold⟩ := hfull hm
      exact hlen ▸ Memory.copies_succ (hfb hm) hb' hnew hold
  | succ j ih =>
    obtain ⟨b, hb, hb'⟩ := byte_at_cursor hcur (by omega)
    obtain ⟨m, hstep, hfull, _⟩ := payloadByteIsStored s b (answers (j + 1)) hc (by omega) (by omega) hs henv hb
    rw [run_succ (j + 1) hstep]
    refine ih (s := { s with env := answers (j + 1), cursor := s.cursor + 1, pcnt := s.pcnt + 1, fb := m })
      hc hs rfl ?_ ?_ hfit hend fun hm => ?_
    · dsimp only
      omega
    · dsimp only
      omega
    · obtain ⟨hnew, hold⟩ := hfull hm
      exact Memory.copies_succ (hfb hm) hb' hnew hold

/-! ### Whole commands (R170, R171) -/

/-- `s` with a command of mode `m` accepted and its first window `q` complete, with `n` answers to come. -/
def State.firstWindow (s : State) (m : Mode) (q : Quad) (n : Nat) : State :=
  { s with
    env := answers n, busy := true, done := false, mode := m, cursor := s.cursor + 4, wfill := 4, w := q,
    riffChecked := true, ctx := .fill }

/-- A command accepted, and FILL4 answered (R150, R155, R156). -/
theorem run_firstWindow (m : Mode) (ign : BitVec 30) (h : s.ready) (hs : s.stale = []) (hq : q.heldAt s.src s.cursor)
    (hgo : s.riffChecked = true ∨ windowWord q ≠ 0x52494646#32) :
    run 5 (s.commanded m ign (n + 4)) =
      .next (tryCandidate (decodeUnit s.cfg (windowWord q)) (s.firstWindow m q n)) := by
  rw [run_succ 4 (step_commanded m ign h)]
  exact run_fill rfl rfl hs rfl hq hgo

/-- A command of mode `m` has delivered the frame of header `d` at position `p` of `bs`; the source stands behind it. -/
structure State.Delivers (m : Mode) (d : Hdr) (bs : List Byte) (p : Nat) (t : State) : Prop where
  isFrame : t.result = .frame
  isSeeking : t.phase = .seeking
  notBusy : t.busy = false
  isDone : t.done = true
  header : t.hdr = d
  cursor : t.cursor = p + d.frameLengthBytes.toNat
  bytes : m = .full → ∀ i, i < d.frameLengthBytes.toNat → readFb t i = bs[p + i]?

/-- A command finds the first valid header at or after the cursor, `k` bytes on, and delivers its frame. -/
theorem run_commanded (m : Mode) (ign : BitVec 30) (k : Nat) (h : s.ready) (hs : s.stale = [])
    (hriff : headerAt s.src s.cursor ≠ some 0x52494646#32)
    (hbad : ∀ i v, i < k → headerAt s.src (s.cursor + i) = some v → decodeUnit s.cfg v = none)
    (hat : headerAt s.src (s.cursor + k) = some w) (hd : decodeUnit s.cfg w = some d)
    (hend : s.cursor + k + d.frameLengthBytes.toNat ≤ s.src.length) :
    hasNext (State.Delivers m d s.src (s.cursor + k))
      (run (1 + (k + d.frameLengthBytes.toNat)) (s.commanded m ign (k + d.frameLengthBytes.toNat))) := by
  obtain ⟨hmin, hmax⟩ := decodeUnit_length hd
  obtain ⟨j, hj⟩ : ∃ j, d.frameLengthBytes.toNat = 4 + (j + 1) := ⟨d.frameLengthBytes.toNat - 5, by omega⟩
  obtain ⟨q, hq⟩ := exists_heldAt (bs := s.src) (p := s.cursor) (by omega)
  have hfill := run_firstWindow (n := j + 1 + k) m ign h hs hq (.inr fun e => hriff (by rw [hq.headerAt, e]))
  obtain ⟨q', fb, hscan, hhead⟩ := run_scan (s := s.firstWindow m q (j + 1 + k)) k hs rfl rfl hq
    (by dsimp only [State.firstWindow]; omega) hbad hat hd
  obtain ⟨fb', hpay, hbytes⟩ := run_payload j
    (s := (s.firstWindow m q (j + 1 + k)).latched d q' fb (s.cursor + k + 4) (j + 1))
    rfl hs rfl rfl hj.symm hmax hend hhead
  have hanswers : k + d.frameLengthBytes.toNat = j + 1 + k + 4 := by omega
  have hsteps : 1 + (k + d.frameLengthBytes.toNat) = 5 + (k + (j + 1)) := by omega
  rw [hsteps, hanswers, run_add 5 _ hfill]
  refine ⟨_, (run_add k _ hscan).trans hpay, rfl, rfl, rfl, rfl, rfl, rfl, fun hm i hi => ?_⟩
  exact (if_pos ⟨rfl, hm, hi⟩).trans (hbytes hm i hi)

/-- A window that holds a valid header does not hold "RIFF" (R190). -/
theorem headerAt_ne_riff {c : Config} (hat : headerAt bs p = some w) (hd : decodeUnit c w = some d) :
    headerAt bs p ≠ some 0x52494646#32 := by
  intro e
  obtain rfl := Option.some.inj (e.symm.trans hat)
  exact absurd ((decodeUnit_riff c).symm.trans hd) nofun

/-- Settles O43: the header at the cursor is the first valid one. -/
theorem nextFrameRoundTrip : Obligations.NextFrameRoundTrip := by
  unfold Obligations.NextFrameRoundTrip
  intro s ign w d h hs hat hd hend
  have hrun := run_commanded .full ign 0 h hs (headerAt_ne_riff hat hd) nofun hat hd hend
  rw [Nat.zero_add] at hrun
  obtain ⟨t, ht, hframe⟩ := hrun
  obtain ⟨hmin, _⟩ := decodeUnit_length hd
  obtain ⟨q, hq⟩ := exists_heldAt (bs := s.src) (p := s.cursor) (by omega)
  obtain rfl : windowWord q = w := Option.some.inj (hq.headerAt.symm.trans hat)
  exact ⟨t, ht, hframe.isFrame, hframe.isSeeking, hframe.notBusy, hframe.isDone, hframe.header, hframe.cursor,
    hframe.bytes rfl, fun k hk => (hframe.bytes rfl k (by omega)).trans (hq.getElem?_eq_headerByte hk)⟩

/-- The stream behind `P` more bytes. -/
theorem getElem?_behind (P F : List Byte) (i : Nat) : (P ++ F)[P.length + i]? = F[i]? := by
  rw [List.getElem?_append_right (Nat.le_add_right _ _), Nat.add_sub_cancel_left]

/-- The windows of a stream behind `P` more bytes. -/
theorem headerAt_behind (P F : List Byte) (i : Nat) : headerAt (P ++ F) (P.length + i) = headerAt F i := by
  simp only [headerAt, Nat.add_assoc, getElem?_behind]

/-- Settles O44: the command on `P ++ F` shifts to the header that the command on `F` finds at once. -/
theorem resynchronizationFindsTheSameFrame : Obligations.ResynchronizationFindsTheSameFrame := by
  unfold Obligations.ResynchronizationFindsTheSameFrame
  intro c m ign P F w d hat hd hend hbad hriff
  have hready (bs : List Byte) : (State.booted c bs).ready := ⟨rfl, rfl, .inr rfl⟩
  have hat' : headerAt (P ++ F) (0 + P.length) = some w := by
    rw [Nat.zero_add]
    exact (headerAt_behind P F 0).trans hat
  obtain ⟨t, ht, hframe⟩ := run_commanded m ign 0 (hready F) rfl (headerAt_ne_riff hat hd) nofun hat hd
    (by rw [Nat.add_zero]; exact (Nat.zero_add _).trans_le hend)
  obtain ⟨u, hu, hframe'⟩ := run_commanded m ign P.length (hready (P ++ F)) rfl hriff
    (fun i v hi hv => hbad i v hi (Nat.zero_add i ▸ hv)) hat' hd
    (by simp [State.booted, State.reset, hend])
  have hcursor : t.cursor = d.frameLengthBytes.toNat := hframe.cursor.trans (Nat.zero_add _)
  refine ⟨t, u, Nat.zero_add d.frameLengthBytes.toNat ▸ ht, hu, hframe.isFrame, hframe'.isFrame, hframe.header,
    hframe'.header.trans hframe.header.symm, hcursor, ?_, fun hm i hi => ?_⟩
  · rw [hframe'.cursor, hcursor]
    exact congrArg (· + d.frameLengthBytes.toNat) (Nat.zero_add P.length)
  · have hbyte : readFb t i = F[i]? := (hframe.bytes hm i hi).trans (congrArg (F[·]?) (Nat.zero_add i))
    have hbyte' : readFb u i = (P ++ F)[P.length + i]? :=
      (hframe'.bytes hm i hi).trans (congrArg (fun p => (P ++ F)[p + i]?) (Nat.zero_add P.length))
    exact ⟨by rw [hbyte', hbyte, getElem?_behind], hbyte⟩

end Sys2Proof.Machine

/-! # The container unwrapper family (43_container_unwrapper.md)

A scan behind an envelope as on the content alone, and the chunk walk from the rewind to the data content. -/

namespace Sys2Proof.Machine

variable {P : List Byte} {s t : State}

/-! ### The same scan behind more bytes (R200, R201) -/

/-- The machine with `P` before its source, at the same place of what was its source. -/
def State.behind (P : List Byte) (t : State) : State :=
  { t with src := P ++ t.src, cursor := P.length + t.cursor }

/-- Past the container check and outside the unwrapper, with no late answer to come, in a command or after one. -/
def State.scanning (t : State) : Prop :=
  t.riffChecked = true ∧ t.ctx.unwrapping = false ∧ t.stale = [] ∧ (t.busy = true ∨ t.result ≠ .none)

theorem shiftedBy_iff : shiftedBy P s t ↔ s = t.behind P ∧ t.scanning := Iff.rfl

theorem ctx_of_not_unwrapping {c : Ctx} (h : c.unwrapping = false) :
    c = .idle ∨ c = .fill ∨ c = .shift ∨ c = .payload := by
  cases c <;> simp [Ctx.unwrapping] at h ⊢

/-- Outside the unwrapper a command reads and never seeks (R192). -/
theorem pendingTxn_of_not_unwrapping (h : t.ctx.unwrapping = false) :
    pendingTxn t = none ∨ pendingTxn t = some .read := by
  rcases ctx_of_not_unwrapping h with hc | hc | hc | hc <;> simp [pendingTxn, hc]

/-- What neither uses nor moves the source, and goes on scanning, keeps the two machines at the same place. -/
theorem shiftedBy.map (h : shiftedBy P s t) (upd : State → State) (hkeep : t.scanning → (upd t).scanning)
    (hupd : ∀ t, upd (t.behind P) = (upd t).behind P := by exact fun _ => rfl) : shiftedBy P (upd s) (upd t) := by
  obtain ⟨rfl, hscan⟩ := shiftedBy_iff.1 h
  exact shiftedBy_iff.2 ⟨hupd t, hkeep hscan⟩

/-- What does not look at the source is the same in both. -/
theorem shiftedBy.same {α : Type} (h : shiftedBy P s t) (read : State → α)
    (hread : ∀ t, read (t.behind P) = read t := by exact fun _ => rfl) : read s = read t := by
  obtain ⟨rfl, _⟩ := h
  exact hread t

theorem shiftedBy.complete (h : shiftedBy P s t) {r : Result} (hr : r ≠ .none) :
    shiftedBy P (complete r s) (complete r t) :=
  h.map (Machine.complete r) fun ⟨hc, _, hs, _⟩ => ⟨hc, rfl, hs, .inr hr⟩

theorem shiftedBy.exhaust (h : shiftedBy P s t) (k : ExKind) : shiftedBy P (exhaust k s) (exhaust k t) :=
  (h.map (fun s => { s with phase := .exhausted, exkind := some k }) id).complete (exhaustResult_ne k).1

theorem shiftedBy.payloadLoop (h : shiftedBy P s t) : shiftedBy P (payloadLoop s) (payloadLoop t) := by
  have hdone := (h.map (fun s => { s with phase := .seeking }) id).complete (r := .frame) nofun
  have hopen := h.map (fun s => { s with ctx := .payload }) fun ⟨hc, _, hrest⟩ => ⟨hc, rfl, hrest⟩
  obtain ⟨rfl, _⟩ := h
  unfold Machine.payloadLoop
  dsimp only [State.behind]
  split
  · exact hopen
  · exact hdone

theorem shiftedBy.copyHeader (h : shiftedBy P s t) : shiftedBy P (copyHeader s) (copyHeader t) := by
  refine h.map Machine.copyHeader (fun hscan => ?_) fun t => ?_
  · simpa [State.scanning] using hscan
  · cases hm : t.mode <;> simp [Machine.copyHeader, State.behind, hm]

theorem shiftedBy.tryCandidate (h : shiftedBy P s t) (d : Option Hdr) :
    shiftedBy P (tryCandidate d s) (tryCandidate d t) := by
  cases d with
  | none => exact h.map shiftWindow fun ⟨hc, _, hrest⟩ => ⟨hc, rfl, hrest⟩
  | some d =>
    have hlatch := h.map (fun s => { s with hdr := d, phase := .emitting, pcnt := 4 }) id
    exact hlatch.copyHeader.payloadLoop

theorem shiftedBy.tryWindow (h : shiftedBy P s t) : outcomesRelated (shiftedBy P) (tryWindow s) (tryWindow t) := by
  have hcfg : s.cfg = t.cfg := h.same State.cfg
  have hw : s.w = t.w := h.same State.w
  rw [tryWindow_eq_decodeUnit, tryWindow_eq_decodeUnit, hcfg, hw]
  exact h.tryCandidate _

/-- The container check is over: every complete window goes to SYNC.TRY (R156, R191). -/
theorem shiftedBy.afterFillDone (h : shiftedBy P s t) :
    outcomesRelated (shiftedBy P) (afterFillDone s) (afterFillDone t) := by
  have hs : s.riffChecked = t.riffChecked := h.same State.riffChecked
  have ⟨_, ht, _⟩ := h
  rw [afterFillDone_eq_tryWindow (.inl (hs.trans ht)), afterFillDone_eq_tryWindow (.inl ht)]
  refine shiftedBy.tryWindow (h.map (fun s => { s with riffChecked := true }) ?_)
  exact fun ⟨_, hrest⟩ => ⟨rfl, hrest⟩

theorem shiftedBy.afterFill (h : shiftedBy P s t) (r : Response) :
    outcomesRelated (shiftedBy P) (afterFill r s) (afterFill r t) := by
  refine outcomesRelated_onByte r _ h.exhaust fun b => ?_
  have hbyte := h.map (fun s => { s with w := s.w.set s.wfill b, wfill := s.wfill + 1 }) id
  have hdone := hbyte.afterFillDone
  obtain ⟨rfl, _⟩ := h
  dsimp only
  split
  · exact hbyte
  · exact hdone

/-- A payload byte FB has no room for (R162, R60). -/
theorem afterPayload_noRoom (b : Byte) (h : fbSize ≤ s.pcnt) :
    afterPayload (.data b) s = if s.mode = .full then .fault .fbAddressAbsent
      else .next (payloadLoop { s with pcnt := s.pcnt + 1 }) := by
  rcases storePayload_cases s s.pcnt b with ⟨hm, e⟩ | ⟨_, hi, _⟩ | ⟨hm, _, e⟩
  · simp [afterPayload, e, hm]
  · omega
  · simp [afterPayload, e, hm]

/-- A payload byte is stored and counted in both, or finds no room in FB in both (R162, R60). -/
theorem shiftedBy.afterPayload (h : shiftedBy P s t) (r : Response) :
    outcomesRelated (shiftedBy P) (afterPayload r s) (afterPayload r t) := by
  have hpcnt : s.pcnt = t.pcnt := h.same State.pcnt
  have hmode : s.mode = t.mode := h.same State.mode
  have hdata (b : Byte) :
      outcomesRelated (shiftedBy P) (Machine.afterPayload (.data b) s) (Machine.afterPayload (.data b) t) := by
    rcases Nat.lt_or_ge t.pcnt fbSize with hp | hp
    · rw [afterPayload_data b (hpcnt.trans_lt hp), afterPayload_data b hp]
      exact shiftedBy.payloadLoop (h.map (fun s => { s with
        fb := if s.mode = .full then Memory.write s.fb s.pcnt b else s.fb, pcnt := s.pcnt + 1 }) id)
    · rw [afterPayload_noRoom b (hp.trans_eq hpcnt.symm), afterPayload_noRoom b hp]
      by_cases hm : t.mode = .full
      · rw [if_pos (hmode.trans hm), if_pos hm]
        exact rfl
      · rw [if_neg (hmode ▸ hm), if_neg hm]
        exact (h.map (fun s => { s with pcnt := s.pcnt + 1 }) id).payloadLoop
  exact outcomesRelated_onByte r _ h.exhaust hdata

/-- A command takes a response alike in both. -/
theorem shiftedBy.react (h : shiftedBy P s t) (r : Response) :
    outcomesRelated (shiftedBy P) (react r s) (react r t) := by
  have hctx : s.ctx = t.ctx := h.same State.ctx
  have ⟨_, _, hout, _⟩ := h
  rcases ctx_of_not_unwrapping hout with hc | hc | hc | hc
  · rw [react_idle r hc, react_idle r (hctx.trans hc)]
    exact h
  · rw [react_fill r hc, react_fill r (hctx.trans hc)]
    exact h.afterFill r
  · rw [react_shift r hc, react_shift r (hctx.trans hc)]
    exact outcomesRelated_onByte r _ h.exhaust fun b =>
      (h.map (fun s => { s with w := s.w.set 3 b }) id).tryWindow
  · rw [react_payload r hc, react_payload r (hctx.trans hc)]
    exact h.afterPayload r

/-- A read finds the same byte of the content, or the end, in both (R61). -/
theorem shiftedBy.performTxn_read (h : shiftedBy P s t) (d : Draw) :
    (performTxn .read d s).1 = (performTxn .read d t).1 ∧
      shiftedBy P (performTxn .read d s).2 (performTxn .read d t).2 := by
  obtain ⟨rfl, hscan⟩ := shiftedBy_iff.1 h
  rcases performTxn_read_cases d t with ⟨b, hb, rfl, e⟩ | ⟨hend, rfl, e⟩ | ⟨rfl, e⟩ <;> rw [e]
  · rw [performTxn_read_data ((getElem?_behind P t.src t.cursor).trans hb)]
    exact ⟨rfl, rfl, hscan⟩
  · have hend' : (P ++ t.src).length ≤ P.length + t.cursor := by simpa using hend
    rw [performTxn_read_end (by exact hend')]
    exact ⟨rfl, h⟩
  · rw [performTxn_error]
    exact ⟨rfl, h⟩

theorem shiftedBy.sourceAnswers (h : shiftedBy P s t) (d : Draw) :
    outcomesRelated (shiftedBy P) (sourceAnswers d s) (sourceAnswers d t) := by
  have hstale : s.stale = t.stale := h.same State.stale
  have hpending : pendingTxn s = pendingTxn t := h.same pendingTxn
  have ⟨_, _, hout, hs, _⟩ := h
  rcases pendingTxn_of_not_unwrapping hout with hx | hx
  · unfold Machine.sourceAnswers
    rw [hstale, hpending, hs, hx]
    exact h
  · obtain ⟨hresp, hnext⟩ := h.performTxn_read d
    rw [sourceAnswers_pending d (hstale.trans hs) (hpending.trans hx), sourceAnswers_pending d hs hx, hresp]
    exact hnext.react _

/-- A command that finds a result is not the first, and starts wherever the cursor is (R154, R155, R232). -/
theorem shiftedBy.startNextFrame (h : shiftedBy P s t) (hr : t.result ≠ .none) :
    outcomesRelated (shiftedBy P) (startNextFrame s) (startNextFrame t) := by
  have hphase : s.phase = t.phase := h.same State.phase
  have hexkind : s.exkind = t.exkind := h.same State.exkind
  have hresult : s.result = t.result := h.same State.result
  unfold Machine.startNextFrame
  rw [hphase, hexkind, hresult, if_neg (fun e => hr e.1), if_neg (fun e => hr e.1)]
  cases t.phase with
  | exhausted =>
    cases t.exkind with
    | none => exact rfl
    | some k => exact h.complete (exhaustResult_ne k).1
  | seeking | emitting =>
    exact h.map startFill fun ⟨hc, _, hrest⟩ => ⟨hc, rfl, hrest⟩

theorem shiftedBy.acceptCommand (h : shiftedBy P s t) (m : Mode) :
    outcomesRelated (shiftedBy P) (acceptCommand m s) (acceptCommand m t) := by
  have hbusy : s.busy = t.busy := h.same State.busy
  have ⟨_, _, _, _, hbegun⟩ := h
  cases hb : t.busy with
  | true =>
    rw [acceptCommand_busy m (hbusy.trans hb), acceptCommand_busy m hb]
    exact h
  | false =>
    have hr : t.result ≠ .none := hbegun.resolve_left (by simp [hb])
    have haccepted := h.map (fun s => { s with busy := true, done := false, mode := m })
      fun ⟨hc, ho, hs, _⟩ => ⟨hc, ho, hs, .inl rfl⟩
    unfold Machine.acceptCommand
    rw [hbusy, hb]
    exact haccepted.startNextFrame hr

/-- A CMD word either does nothing in every state, or is the command of a mode in every state (R150, R151). -/
theorem exec_command_uniform (v : Word) :
    (∀ s, exec (decode .command v) s = .next s) ∨ ∃ m, ∀ s, exec (decode .command v) s = acceptCommand m s := by
  rcases decodeCommand_cases v with ⟨_, g, e⟩ | ⟨_, g, e⟩ | ⟨_, g, e⟩ | ⟨_, g, e⟩ <;> rw [decode, e]
  · exact .inl fun _ => rfl
  · exact .inr ⟨.full, fun _ => rfl⟩
  · exact .inr ⟨.headerOnly, fun _ => rfl⟩
  · exact .inl fun _ => rfl

theorem shiftedBy.hostWrite (h : shiftedBy P s t) (o n : Nat) (v : Word) :
    outcomesRelated (shiftedBy P) (hostWrite o n v s) (hostWrite o n v t) := by
  have hcommand : outcomesRelated (shiftedBy P) (exec (decode .command v) s) (exec (decode .command v) t) := by
    rcases exec_command_uniform v with e | ⟨m, e⟩ <;> rw [e, e]
    · exact h
    · exact h.acceptCommand m
  unfold Machine.hostWrite
  split_ifs
  · exact h
  · exact rfl
  · exact hcommand
  · exact h
  · exact rfl

/-- The host reads the same value in both, or has the same fault in both (R201). -/
theorem shiftedBy.hostRead (h : shiftedBy P s t) (o n : Nat) :
    outcomesRelated (shiftedBy P) (hostRead o n s) (hostRead o n t) := by
  have hfb (i : Nat) : readFb s i = readFb t i := h.same (readFb · i)
  have hreg : readRegister s o = readRegister t o := h.same (readRegister · o)
  have hvalue (v : Word) := h.map (fun s => { s with rdata := v }) id
  unfold Machine.hostRead
  rw [hfb, hreg]
  split_ifs
  · cases readFb t (o - fbBase) with
    | none => exact rfl
    | some b => exact hvalue _
  · exact rfl
  · cases readRegister t o with
    | none => exact rfl
    | some v => exact hvalue v
  · exact rfl

/-- Settles O46: the two machines stay at the same place at every input but reset and a new source. -/
theorem envelopeIsInvisibleAfterTheUnwrap : Obligations.EnvelopeIsInvisibleAfterTheUnwrap := by
  unfold Obligations.EnvelopeIsInvisibleAfterTheUnwrap
  intro P s t e h hrst hbind
  cases e with
  | hostWrite o n v => exact h.hostWrite o n v
  | hostRead o n => exact h.hostRead o n
  | rst => exact absurd rfl hrst
  | answer d => exact h.sourceAnswers d
  | bind bs => exact absurd rfl (hbind bs)

end Sys2Proof.Machine

namespace Sys2Proof.Machine

variable {s : State} {rest : List Event} {q z : Quad}

/-! ### The end of the source inside the walk (R197) -/

/-- Settles O27: every read of the unwrapper names FORMAT_ERROR for END. -/
theorem endInUnwrapperIsFormatError : Obligations.EndInUnwrapperIsFormatError := by
  unfold Obligations.EndInUnwrapperIsFormatError
  rintro s k rest (hc | hc | hc) hs h hend
  · rw [step_read_end hs h hend (by simp [pendingTxn, hc]), react_riffHeader (k := k) _ (by exact hc)]
    rfl
  · rw [step_read_end hs h hend (by simp [pendingTxn, hc]), react_chunkId (k := k) _ (by exact hc)]
    rfl
  · rw [step_read_end hs h hend (by simp [pendingTxn, hc]), react_chunkSize (k := k) _ (by exact hc)]
    rfl

/-! ### The RIFF header (R193) -/

/-- The last `j + 1` of the 12 header bytes, whatever they are. -/
theorem run_riffHeader (j : Nat) {k : Nat} (hk : k + j = 11) (hc : s.ctx = .riffHeader k) (hs : s.stale = [])
    (henv : s.env = answers (j + 1) ++ rest) (hcur : s.cursor = k) (hlen : 12 ≤ s.src.length) :
    run (j + 1) s = .next { s with env := rest, cursor := 12, upos := 12, ctx := .chunkId 0 } := by
  induction j generalizing s k with
  | zero =>
    have hstep := step_riffHeader hc hs henv (List.getElem?_eq_getElem (i := s.cursor) (by omega))
    obtain rfl : k = 11 := hk
    rw [run_succ 0 hstep, run_zero, if_neg (by decide), hcur]
    rfl
  | succ j ih =>
    have hstep := step_riffHeader hc hs henv (List.getElem?_eq_getElem (i := s.cursor) (by omega))
    rw [if_pos (by omega)] at hstep
    rw [run_succ (j + 1) hstep]
    exact ih (k := k + 1) (by omega) rfl hs rfl (congrArg (· + 1) hcur) hlen

/-- Settles O30: the seek to 0, then the twelve bytes. -/
theorem riffHeaderIsReadAndDiscarded : Obligations.RiffHeaderIsReadAndDiscarded := by
  unfold Obligations.RiffHeaderIsReadAndDiscarded
  intro s rest hc hs henv hlen
  rw [run_succ 12 (step_rewind hc hs henv)]
  exact run_riffHeader 11 rfl rfl hs rfl rfl hlen

/-! ### One chunk (R194 to R196) -/

/-- At "data" the walk seeks to the content (R195). -/
theorem chunkDone_data (hid : s.cid = dataId) (hfit : s.upos + 8 < 2 ^ posWidth) :
    chunkDone s = .next { s with upos := s.upos + 8, ctx := .seekData } := by
  rw [chunkDone, if_pos hid, if_pos hfit]

/-- At any other identifier the walk seeks past the chunk (R196). -/
theorem chunkDone_other {p : Nat} (hid : s.cid ≠ dataId) (hp : skipTarget s.cfg (s.upos + 8) (littleEndian s.csz) = p)
    (hfit : p < 2 ^ posWidth) : chunkDone s = .next { s with upos := p, ctx := .seekSkip } := by
  subst hp
  rw [chunkDone, if_neg hid]
  exact if_pos hfit

/-- A target outside the 64 bits of `upos` is refused (U15). -/
theorem chunkDone_tooWide (hwide : s.cid = dataId ∧ 2 ^ posWidth ≤ s.upos + 8 ∨
      s.cid ≠ dataId ∧ 2 ^ posWidth ≤ skipTarget s.cfg (s.upos + 8) (littleEndian s.csz)) :
    chunkDone s = .refused .seekTargetTooWide := by
  rcases chunkDone_cases s with ⟨hid, hfit, _⟩ | ⟨hid, hfit, _⟩ | ⟨_, e⟩
  · simp only [hid, hfit.not_ge, ne_eq, not_true_eq_false, true_and, false_and, or_self] at hwide
  · simp only [hid, hfit.not_ge, and_false, false_and, or_self] at hwide
  · exact e

/-- The four bytes of the identifier. -/
theorem run_chunkId (hc : s.ctx = .chunkId 0) (hs : s.stale = []) (henv : s.env = answers 4 ++ rest)
    (hq : q.heldAt s.src s.cursor) :
    run 4 s = .next { s with env := rest, cursor := s.cursor + 4, cid := q, ctx := .chunkSize 0 } := by
  obtain ⟨h0, h1, h2, h3⟩ := hq
  calc run 4 s
    _ = run 3 { s with
          env := answers 3 ++ rest, cursor := s.cursor + 1, cid := { s.cid with b0 := q.b0 }, ctx := .chunkId 1 } :=
      run_succ 3 (step_chunkId hc hs henv h0)
    _ = run 2 { s with
          env := answers 2 ++ rest, cursor := s.cursor + 2, cid := { s.cid with b0 := q.b0, b1 := q.b1 },
          ctx := .chunkId 2 } :=
      run_succ 2 (step_chunkId (k := 1) rfl hs rfl h1)
    _ = run 1 { s with
          env := answers 1 ++ rest, cursor := s.cursor + 3, cid := { q with b3 := s.cid.b3 }, ctx := .chunkId 3 } :=
      run_succ 1 (step_chunkId (k := 2) rfl hs rfl h2)
    _ = .next { s with env := rest, cursor := s.cursor + 4, cid := q, ctx := .chunkSize 0 } :=
      run_succ 0 (step_chunkId (k := 3) rfl hs rfl h3)

/-- The four bytes of the size, the step of the last completing the chunk header. -/
theorem run_chunkSize (hc : s.ctx = .chunkSize 0) (hs : s.stale = []) (henv : s.env = answers 4 ++ rest)
    (hz : z.heldAt s.src s.cursor) :
    ∃ t, run 3 s = .next t ∧
      step t = chunkDone { s with env := rest, cursor := s.cursor + 4, csz := z, ctx := .chunkSize 3 } := by
  obtain ⟨h0, h1, h2, h3⟩ := hz
  refine ⟨{ s with
    env := answers 1 ++ rest, cursor := s.cursor + 3, csz := { z with b3 := s.csz.b3 }, ctx := .chunkSize 3 }, ?_,
    Eq.trans (step_chunkSize (k := 3) rfl hs rfl h3) (if_neg (by decide))⟩
  calc run 3 s
    _ = run 2 { s with
          env := answers 3 ++ rest, cursor := s.cursor + 1, csz := { s.csz with b0 := z.b0 }, ctx := .chunkSize 1 } :=
      run_succ 2 (step_chunkSize hc hs henv h0)
    _ = run 1 { s with
          env := answers 2 ++ rest, cursor := s.cursor + 2, csz := { s.csz with b0 := z.b0, b1 := z.b1 },
          ctx := .chunkSize 2 } :=
      run_succ 1 (step_chunkSize (k := 1) rfl hs rfl h1)
    _ = _ := run_succ 0 (step_chunkSize (k := 2) rfl hs rfl h2)

section
variable (hc : s.ctx = .chunkId 0) (hs : s.stale = []) (henv : s.env = answers 9 ++ rest)
  (hq : q.heldAt s.src s.cursor) (hz : z.heldAt s.src (s.cursor + 4))
include hc hs henv hq hz

/-- The eight bytes of a chunk header, the step of the last completing it, with the answer to a seek still to come. -/
theorem run_chunkHeader : ∃ t, run 7 s = .next t ∧ step t = chunkDone { s with
    env := answers 1 ++ rest, cursor := s.cursor + 8, cid := q, csz := z, ctx := .chunkSize 3 } := by
  have hid := run_chunkId (rest := answers 5 ++ rest) hc hs henv hq
  obtain ⟨t, ht, hlast⟩ := run_chunkSize (s := { s with
    env := answers 5 ++ rest, cursor := s.cursor + 4, cid := q, ctx := .chunkSize 0 }) (rest := answers 1 ++ rest)
    rfl hs rfl hz
  exact ⟨t, (run_add 4 3 hid).trans ht, hlast⟩

/-- At "data" the cursor is placed at the content and FILL4 begins (R195). -/
theorem run_dataChunk (hid : q = dataId) (hfit : s.upos + 8 < 2 ^ posWidth) :
    run 9 s = .next { s with
      env := rest, upos := s.upos + 8, cursor := s.upos + 8, wfill := 0, ctx := .fill, cid := q, csz := z } := by
  obtain ⟨t, ht, hlast⟩ := run_chunkHeader hc hs henv hq hz
  rw [run_add 7 2 ht, run_succ 1 (hlast.trans (chunkDone_data hid hfit))]
  exact run_succ 0 (step_seekData rfl hs rfl)

/-- Any other chunk is skipped (R196). -/
theorem run_otherChunk {p : Nat} (hid : q ≠ dataId) (hp : skipTarget s.cfg (s.upos + 8) (littleEndian z) = p)
    (hfit : p < 2 ^ posWidth) :
    run 9 s = .next { s with env := rest, upos := p, cursor := p, ctx := .chunkId 0, cid := q, csz := z } := by
  obtain ⟨t, ht, hlast⟩ := run_chunkHeader hc hs henv hq hz
  rw [run_add 7 2 ht, run_succ 1 (hlast.trans (chunkDone_other hid hp hfit))]
  exact run_succ 0 (step_seekSkip rfl hs rfl)

/-- A chunk whose target does not fit `upos` ends the run (U15). -/
theorem run_chunk_tooWide (hwide : q = dataId ∧ 2 ^ posWidth ≤ s.upos + 8 ∨
      q ≠ dataId ∧ 2 ^ posWidth ≤ skipTarget s.cfg (s.upos + 8) (littleEndian z)) :
    run 9 s = .refused .seekTargetTooWide := by
  obtain ⟨t, ht, hlast⟩ := run_chunkHeader hc hs henv hq hz
  rw [run_add 7 2 ht]
  exact run_refused 1 (hlast.trans (chunkDone_tooWide hwide))

end

/-- Settles O31: the eight bytes are the chunk's identifier and size. -/
theorem chunkIsSkippedOrFound : Obligations.ChunkIsSkippedOrFound := by
  unfold Obligations.ChunkIsSkippedOrFound
  rintro s rest i0 i1 i2 i3 z0 z1 z2 z3 _ _ hc hs henv hcur h0 h1 h2 h3 g0 g1 g2 g3 rfl rfl
  have hid : [i0, i1, i2, i3] = [0x64#8, 0x61#8, 0x74#8, 0x61#8] ↔ (⟨i0, i1, i2, i3⟩ : Quad) = dataId := by
    simp [dataId]
  have hq : (⟨i0, i1, i2, i3⟩ : Quad).heldAt s.src s.cursor := by rw [hcur]; exact ⟨h0, h1, h2, h3⟩
  have hz : (⟨z0, z1, z2, z3⟩ : Quad).heldAt s.src (s.cursor + 4) := by rw [hcur]; exact ⟨g0, g1, g2, g3⟩
  refine ⟨fun h => ⟨fun hfit => ?_, fun hwide => ?_⟩, fun h => ⟨fun hfit => ?_, fun hwide => ?_⟩⟩
  · exact run_dataChunk hc hs henv hq hz (hid.1 h) hfit
  · exact run_chunk_tooWide hc hs henv hq hz (.inl ⟨hid.1 h, hwide⟩)
  · exact run_otherChunk hc hs henv hq hz (fun e => h (hid.2 e)) rfl hfit
  · exact run_chunk_tooWide hc hs henv hq hz (.inr ⟨fun e => h (hid.2 e), hwide⟩)

/-! ### The walk over the chunks (R190 to R196) -/

/-- A stream holds at `p` the four bytes it goes on with there. -/
theorem heldAt_of_drop {bs B : List Byte} {p : Nat} (h : bs.drop p = q.bytes ++ B) : q.heldAt bs p := by
  have hat (i : Nat) : bs[p + i]? = (q.bytes ++ B)[i]? := by rw [← h, List.getElem?_drop]
  exact ⟨hat 0, hat 1, hat 2, hat 3⟩

/-- A stream that goes on with `A` at `p` goes on with the rest behind `A`. -/
theorem drop_add_of_drop {bs A B : List Byte} {p n : Nat} (h : bs.drop p = A ++ B) (hn : A.length = n) :
    bs.drop (p + n) = B := by
  rw [← List.drop_drop, h, ← hn, List.drop_left]

theorem answers_add (a b : Nat) : answers (a + b) = answers a ++ answers b := List.replicate_add ..

theorem Chunk.length_bytes (k : Chunk) : k.bytes.length = 8 + k.body.length := by
  simp only [Chunk.bytes, Quad.bytes, List.length_append, List.length_cons, List.length_nil]

/-- The walk skips as far from any position as from 0 (R196). -/
theorem skipTarget_eq_add (c : Config) (p n : Nat) : skipTarget c p n = p + skipTarget c 0 n := by
  simp only [skipTarget]
  omega

/-- The chunks the walk skips (R194 to R196). -/
def Chunk.skipped (c : Config) (k : Chunk) : Prop :=
  k.id ≠ dataId ∧ k.body.length = skipTarget c 0 (littleEndian k.size)

/-- One chunk of the walk is skipped: the walk stands behind its body. -/
theorem run_skippedChunk {k : Chunk} {B : List Byte} (hc : s.ctx = .chunkId 0) (hs : s.stale = [])
    (henv : s.env = answers 9 ++ rest) (hcur : s.cursor = s.upos) (hsrc : s.src.drop s.upos = k.bytes ++ B)
    (hskip : k.skipped s.cfg) (hshort : s.src.length < 2 ^ 63) :
    run 9 s = .next { s with
      env := rest, upos := s.upos + k.bytes.length, cursor := s.upos + k.bytes.length, ctx := .chunkId 0, cid := k.id,
      csz := k.size } := by
  obtain ⟨hid, hbody⟩ := hskip
  have htarget : skipTarget s.cfg (s.upos + 8) (littleEndian k.size) = s.upos + k.bytes.length := by
    rw [skipTarget_eq_add, ← hbody, k.length_bytes, Nat.add_assoc]
  have hfit : s.upos + k.bytes.length < 2 ^ posWidth := by
    have hlen := congrArg List.length hsrc
    have hbytes := k.length_bytes
    rw [List.length_drop, List.length_append] at hlen
    unfold posWidth
    omega
  rw [Chunk.bytes, List.append_assoc, List.append_assoc, ← hcur] at hsrc
  have hz := heldAt_of_drop (drop_add_of_drop hsrc rfl)
  exact run_otherChunk hc hs henv (heldAt_of_drop hsrc) hz hid htarget hfit

/-- Chunk after chunk is skipped, until the walk stands at the content of "data". -/
theorem run_walk (chunks : List Chunk) {D : List Byte} (hc : s.ctx = .chunkId 0) (hs : s.stale = [])
    (henv : s.env = answers (9 * chunks.length + 9)) (hcur : s.cursor = s.upos)
    (hsrc : s.src.drop s.upos = chunks.flatMap Chunk.bytes ++ (dataId.bytes ++ (z.bytes ++ D)))
    (hskip : ∀ k ∈ chunks, k.skipped s.cfg) (hshort : s.src.length < 2 ^ 63) :
    run (9 * chunks.length + 9) s = .next { s with
      env := [], upos := s.upos + (chunks.flatMap Chunk.bytes).length + 8,
      cursor := s.upos + (chunks.flatMap Chunk.bytes).length + 8, wfill := 0, ctx := .fill, cid := dataId,
      csz := z } := by
  induction chunks generalizing s with
  | nil =>
    have hfit : s.upos + 8 < 2 ^ posWidth := by
      have hlen := congrArg List.length hsrc
      simp only [List.length_drop, List.flatMap_nil, List.nil_append, List.length_append, Quad.bytes, List.length_cons]
        at hlen
      unfold posWidth
      omega
    rw [List.flatMap_nil, List.nil_append, ← hcur] at hsrc
    have hz := heldAt_of_drop (drop_add_of_drop hsrc rfl)
    exact run_dataChunk hc hs henv (heldAt_of_drop hsrc) hz rfl hfit
  | cons k ks ih =>
    obtain ⟨hk, hks⟩ := List.forall_mem_cons.1 hskip
    have hcount : 9 * (k :: ks).length + 9 = 9 + (9 * ks.length + 9) := by rw [List.length_cons]; omega
    rw [hcount, answers_add] at henv
    rw [List.flatMap_cons, List.append_assoc] at hsrc
    rw [hcount, run_add 9 _ (run_skippedChunk hc hs henv hcur hsrc hk hshort)]
    refine Eq.trans (ih rfl hs rfl rfl (drop_add_of_drop hsrc rfl) hks hshort) ?_
    simp only [List.flatMap_cons, List.length_append, Nat.add_assoc]

/-- FILL4 answered with "RIFF" as the first window (R155, R156, R190). -/
theorem run_fill_riff (hc : s.ctx = .fill) (hw : s.wfill = 0) (hs : s.stale = []) (hr : s.riffChecked = false)
    (henv : s.env = answers 4 ++ rest) (hq : riffSignature.heldAt s.src s.cursor) :
    run 4 s = .next { s with
      env := rest, cursor := s.cursor + 4, wfill := 4, w := riffSignature, riffChecked := true, ctx := .rewind } := by
  obtain ⟨h0, h1, h2, h3⟩ := hq
  have step0 := step_fill_open hc (by omega) hs henv h0
  rw [hw] at step0
  calc run 4 s
    _ = run 3 { s with
          env := answers 3 ++ rest, cursor := s.cursor + 1, wfill := 1,
          w := { s.w with b0 := riffSignature.b0 } } := run_succ 3 step0
    _ = run 2 { s with
          env := answers 2 ++ rest, cursor := s.cursor + 2, wfill := 2,
          w := { s.w with b0 := riffSignature.b0, b1 := riffSignature.b1 } } :=
      run_succ 2 (step_fill_open hc (by simp) hs rfl h1)
    _ = run 1 { s with
          env := answers 1 ++ rest, cursor := s.cursor + 3, wfill := 3, w := { riffSignature with b3 := s.w.b3 } } :=
      run_succ 1 (step_fill_open hc (by simp) hs rfl h2)
    _ = .next { s with
          env := rest, cursor := s.cursor + 4, wfill := 4, w := riffSignature, riffChecked := true, ctx := .rewind } :=
      run_succ 0 (riffSignatureStartsTheUnwrapper _ _ rest hc rfl hr hs rfl h3
        ((eq_riffSignature_iff riffSignature).1 rfl))

/-- An envelope is the 12 bytes of the RIFF header, the chunks, and the header of "data". -/
theorem envelope_append (header : List Byte) (chunks : List Chunk) (size : Quad) (D : List Byte) :
    envelope header chunks size ++ D =
      riffSignature.bytes ++ header ++ (chunks.flatMap Chunk.bytes ++ (dataId.bytes ++ (size.bytes ++ D))) := by
  simp [envelope]

theorem length_envelope {header : List Byte} (h : header.length = 8) (chunks : List Chunk) (size : Quad) :
    (envelope header chunks size).length = 12 + (chunks.flatMap Chunk.bytes).length + 8 := by
  simp only [envelope, List.length_append, h, Quad.bytes, List.length_cons, List.length_nil]

/-- The first command after reset, of mode `m`, about to fill its window from the first byte of `D` behind an envelope
`P` whose "data" chunk has the size field `size`. -/
def State.atContent (c : Config) (m : Mode) (size : Quad) (P D : List Byte) : State :=
  { State.booted c (P ++ D) with
    busy := true, mode := m, ctx := .fill, riffChecked := true, w := riffSignature, upos := P.length,
    cursor := P.length, cid := dataId, csz := size }

/-- At the content of "data" the command runs as on the content alone (R200). -/
theorem shiftedBy_atContent (c : Config) (m : Mode) (size : Quad) (P D : List Byte) :
    shiftedBy P (State.atContent c m size P D) { State.atContent c m size P D with src := D, cursor := 0 } :=
  ⟨rfl, rfl, rfl, rfl, .inl rfl⟩

/-- The first window is "RIFF", the RIFF header is discarded, and the walk stops at the content of "data". -/
theorem run_unwrap (c : Config) (m : Mode) (ign : BitVec 30) {header : List Byte} (chunks : List Chunk) (size : Quad)
    {P : List Byte} (D : List Byte) (hP : P = envelope header chunks size) (hheader : header.length = 8)
    (hskip : ∀ k ∈ chunks, k.skipped c) (hshort : (P ++ D).length < 2 ^ 63) :
    run (1 + (26 + 9 * chunks.length)) ((State.booted c (P ++ D)).commanded m ign (26 + 9 * chunks.length)) =
      .next (State.atContent c m size P D) := by
  have hsplit : P ++ D = _ := hP ▸ envelope_append header chunks size D
  have hlen : P.length = 12 + (chunks.flatMap Chunk.bytes).length + 8 := hP ▸ length_envelope hheader chunks size
  have hread : 12 ≤ (P ++ D).length := by rw [List.length_append, hlen]; omega
  have hwindow : riffSignature.heldAt (P ++ D) 0 := heldAt_of_drop (hsplit.trans (List.append_assoc ..))
  have hwalk : (P ++ D).drop 12 = _ := drop_add_of_drop (p := 0) (n := 12) hsplit (by simp [Quad.bytes, hheader])
  have hcount : 26 + 9 * chunks.length = 4 + (13 + (9 * chunks.length + 9)) := by omega
  have henv : answers (4 + (13 + (9 * chunks.length + 9))) =
      answers 4 ++ (answers 13 ++ answers (9 * chunks.length + 9)) := by rw [answers_add, answers_add]
  have hready : (State.booted c (P ++ D)).ready := ⟨rfl, rfl, .inr rfl⟩
  have hstart := step_commanded (n := 4 + (13 + (9 * chunks.length + 9))) m ign hready
  rw [hcount, Nat.add_comm 1, run_succ _ hstart, run_add 4 _ (run_fill_riff rfl rfl rfl rfl henv hwindow),
    run_add 13 _ (riffHeaderIsReadAndDiscarded _ _ rfl rfl rfl hread)]
  refine Eq.trans (run_walk chunks rfl rfl rfl rfl hwalk hskip hshort) ?_
  rw [State.atContent, hlen]
  rfl

/-- Settles O32: the state at the content is one on `D` alone but for the envelope before it. -/
theorem unwrapReachesTheDataContent : Obligations.UnwrapReachesTheDataContent := by
  unfold Obligations.UnwrapReachesTheDataContent
  intro c m ign header chunks size P D hP hheader hskip hshort
  exact ⟨State.atContent c m size P D, run_unwrap c m ign chunks size D hP hheader hskip hshort, rfl, rfl, rfl, rfl,
    rfl, rfl, rfl, rfl, rfl, shiftedBy_atContent c m size P D⟩

end Sys2Proof.Machine

/-! # The exceptions family (60_exceptions.md)

What an input can do to an idle block, and in EXHAUSTED. -/

namespace Sys2Proof.Machine

variable {s t : State} {e : Event}

/-- An idle block waits for no response, so nothing but a reset, an accepted command or a new source reaches past the source's
side and the value the host read (R221). -/
theorem Takes.idle_cases (h : Takes s e t) (hc : s.ctx = .idle) :
    e = .rst ∨
    (∃ v m, e = .hostWrite 0 4 v ∧ (v.extractLsb' 0 2 = 0b01#2 ∨ v.extractLsb' 0 2 = 0b10#2) ∧
      acceptCommand m s = .next t) ∨
    (∃ bs, e = .bind bs ∧ t = { s with src := bs, cursor := 0, stale := [] }) ∨
    t = { s with rdata := t.rdata, stale := t.stale, cursor := t.cursor } := by
  cases h with
  | unchanged => exact .inr (.inr (.inr rfl))
  | @accept v m _ _ hcode ha => exact .inr (.inl ⟨v, m, rfl, hcode, ha⟩)
  | reset => exact .inl rfl
  | @late x xs d _ =>
    obtain ⟨c, hstate⟩ := performTxn_state x d { s with stale := xs }
    rw [hstate]
    exact .inr (.inr (.inr rfl))
  | response _ hx _ => simp [pendingTxn, hc] at hx
  | bound => exact .inr (.inr (.inl ⟨_, rfl, rfl⟩))

/-- In EXHAUSTED the block is idle, its last command complete with the terminal code of its kind (R154, R214). -/
theorem State.Inv.exhausted (h : s.Inv) (hph : s.phase = .exhausted) :
    ∃ k, s.exkind = some k ∧ s.ctx = .idle ∧ s.busy = false ∧ s.done = true ∧ s.result = exhaustResult k := by
  obtain ⟨k, hk⟩ := Option.isSome_iff_exists.1 (h.exhaustedIff.1 hph)
  obtain ⟨hb, hd, hr⟩ := h.exhaustedDone k hk
  exact ⟨k, hk, h.idle_of_not_busy hb, hb, hd, hr⟩

/-- Settles O34: a command accepted in EXHAUSTED writes the code that stands there, and no other input but reset writes any of
these registers. -/
theorem onlyResetLeavesExhausted : Obligations.OnlyResetLeavesExhausted := by
  unfold Obligations.OnlyResetLeavesExhausted
  intro s t e rest h hph henv hrst ht
  obtain ⟨k, hk, hc, hb, hd, hr⟩ := h.exhausted hph
  rcases (takes_of_step henv ht).idle_cases hc with rfl | ⟨v, m, _, _, ha⟩ | ⟨bs, _, rfl⟩ | hkeep
  · exact absurd rfl hrst
  · rw [acceptCommand_exhausted (s := { s with env := rest }) m hb hph hk] at ha
    cases ha
    exact ⟨hph, rfl, hr.symm, rfl, rfl⟩
  · exact ⟨hph, rfl, rfl, hb, hd⟩
  · rw [hkeep]
    exact ⟨hph, rfl, rfl, hb, hd⟩

/-- Settles O38: the hypotheses leave only the inputs that reach no register of the block. -/
theorem idleBlockKeepsItsState : Obligations.IdleBlockKeepsItsState := by
  unfold Obligations.IdleBlockKeepsItsState
  intro s t e rest _ hc henv hrst hbind hcmd ht
  rcases (takes_of_step henv ht).idle_cases hc with rfl | ⟨v, _, rfl, hcode, _⟩ | ⟨bs, rfl, _⟩ | hkeep
  · exact absurd rfl hrst
  · rcases hcmd v rfl with h | h <;> simp [h] at hcode
  · exact absurd rfl (hbind bs)
  · exact hkeep

end Sys2Proof.Machine

/-! # The reset and hazards family (70_reset_and_hazards.md)

What moves a busy block, and where the model refuses the platform's use of the source. -/

namespace Sys2Proof.Machine

variable {s t : State} {e : Event}

/-- A command in progress is moved only by a reset or an answer; any other input leaves no more than the value the host read
(R172, R239). -/
theorem Takes.busy_cases (h : Takes s e t) (hb : s.busy = true) :
    e = .rst ∨ (∃ d, e = .answer d) ∨ t = { s with rdata := t.rdata } := by
  cases h with
  | unchanged => exact .inr (.inr rfl)
  | accept hidle | bound hidle => simp [hb] at hidle
  | reset => exact .inl rfl
  | late d _ | @response _ d => exact .inr (.inl ⟨d, rfl⟩)

/-- The first command after reset needs the source at position 0, in either mode (R232, U16). -/
theorem acceptCommand_cursorNotAtStart (m : Mode) (hb : s.busy = false) (hph : s.phase ≠ .exhausted)
    (hr : s.result = .none) (hc : s.cursor ≠ 0) : acceptCommand m s = .refused .cursorNotAtStart := by
  rcases acceptCommand_cases m hb with ⟨_, hex, _⟩ | ⟨hex, _⟩ | ⟨_, hstart, _⟩ | ⟨_, _, _, e⟩
  · exact absurd hex hph
  · exact absurd hex hph
  · simp [hr, hc] at hstart
  · exact e

/-- Before the first command after reset a source the positions can address is bound at position 0 (R232, R233). -/
theorem bindSource_beforeFirstCommand {bs : List Byte} (hb : s.busy = false) (hr : s.result = .none)
    (hl : bs.length < 2 ^ 63) : bindSource bs s = .next { s with src := bs, cursor := 0, stale := [] } := by
  rcases bindSource_cases bs s with ⟨_, _, _, e⟩ | ⟨hused, _⟩ | ⟨hlong, _⟩
  · exact e
  · simp [hb, hr] at hused
  · exact absurd hl hlong.not_gt

/-- A block in use takes no new source, however long it is: this test comes before that of its length (R71, U17). -/
theorem bindSource_inUse (bs : List Byte) (h : s.busy = true ∨ s.result ≠ .none) :
    bindSource bs s = .refused .sourceRebound := if_pos h

/-- Settles O37: the hypotheses leave only the inputs that do not move the command. -/
theorem commandWaitsForItsResponse : Obligations.CommandWaitsForItsResponse := by
  unfold Obligations.CommandWaitsForItsResponse
  refine ⟨fun s => step_idle, fun s t e rest hb henv hrst hanswer ht => ?_⟩
  rcases (takes_of_step henv ht).busy_cases hb with rfl | ⟨d, rfl⟩ | hkeep
  · exact absurd rfl hrst
  · exact absurd rfl (hanswer d)
  · exact hkeep

/-- Settles O19: both commands are refused in their mode. -/
theorem firstCommandNeedsTheStreamStart : Obligations.FirstCommandNeedsTheStreamStart := by
  unfold Obligations.FirstCommandNeedsTheStreamStart
  intro s ign hb hph hr hc
  have hne : s.phase ≠ .exhausted := by simp [hph]
  exact ⟨acceptCommand_cursorNotAtStart .full hb hne hr hc, acceptCommand_cursorNotAtStart .headerOnly hb hne hr hc⟩

/-- Settles O54: of the abandoned transaction only the source's cursor is left. -/
theorem lateResponseIsDiscarded : Obligations.LateResponseIsDiscarded := by
  unfold Obligations.LateResponseIsDiscarded
  intro s d x xs rest hs henv
  obtain ⟨c, hstate⟩ := performTxn_state x d { s with env := rest, stale := xs }
  exact ⟨c, by rw [step_answer_stale henv hs, hstate]⟩

/-- Settles O55: taking the event off leaves `busy` and `result`, which decide between the two. -/
theorem sourceIsBoundOnlyBeforeTheFirstCommand : Obligations.SourceIsBoundOnlyBeforeTheFirstCommand := by
  unfold Obligations.SourceIsBoundOnlyBeforeTheFirstCommand
  intro s bs rest henv
  rw [step_bind henv]
  exact ⟨bindSource_beforeFirstCommand (s := { s with env := rest }), bindSource_inUse (s := { s with env := rest }) bs⟩

end Sys2Proof.Machine
